-- ==== Sys2Proof/Word.lean ====
section
/-! DEFINITION. The widths the spec names (00_scope.md R5, R8, R9; 10_state.md R21). -/

namespace Sys2Proof

/-- One byte of a byte sequence (R8). -/
abbrev Byte := BitVec 8

/-- One 32-bit bus word: a register of the window, a command word, the DATA field of an HTW (R62, R100, R104). -/
abbrev Word := BitVec 32

/-- A byte offset in the 4096-byte register window (R61). -/
abbrev Offset := BitVec 12

/-- The integrity register A, or one data register R[i] (R24). Byte 0 is the most significant byte (R9). -/
abbrev Chunk := BitVec 64

/-- A 16-byte AES block. Byte 0 is bits [127:120] (R9). -/
abbrev Block := BitVec 128

end Sys2Proof
end

