-- ==== Sys2Proof/Config.lean ====
section
/-! DEFINITION. The parameters the spec leaves open (00_scope.md R6, R7; 92_eei_decisions.md section 2).
The base address of a window is an argument of Machine/Platform.lean, and STEP_TIME is out of scope (R277: no rule
depends on it), so the AES pair is the one parameter the machine itself takes. -/

namespace Sys2Proof

/-- An AES key: a byte sequence of length 16, 24 or 32 (R6). No other length is a key. -/
inductive AesKey where
  | k128 (bytes : Vector Byte 16)
  | k192 (bytes : Vector Byte 24)
  | k256 (bytes : Vector Byte 32)
  deriving DecidableEq, Repr

/-- The key as a byte sequence, its first byte first (R6, R8). -/
def AesKey.byteList : AesKey → List Byte
  | .k128 b => b.toList
  | .k192 b => b.toList
  | .k256 b => b.toList

/-- The AES block primitive of R6: a pair of total, stateless functions of a key and a block.
The engine's operations take the pair as an argument, since R6 makes it a model parameter. -/
structure AesPair where
  enc : AesKey → Block → Block
  dec : AesKey → Block → Block

/-- R6, the first law the model may assume: for every key, decryption undoes encryption. -/
def AesPair.DecEnc (p : AesPair) : Prop := ∀ k x, p.dec k (p.enc k x) = x

/-- R6, the first law read the other way: for every key, encryption undoes decryption. -/
def AesPair.EncDec (p : AesPair) : Prop := ∀ k x, p.enc k (p.dec k x) = x

/-- The engine's own AES primitive, left open: "a keyed permutation" of blocks, with no value given (log entry 1). -/
opaque Config.aes : AesKey → Equiv.Perm Block

/-- The pair `aesEnc`, `aesDec` of R6 that the machine's step uses (log entry 1). -/
def Config.aesPair : AesPair where
  enc k x := Config.aes k x
  dec k x := (Config.aes k).symm x

theorem Config.aesPair_decEnc : Config.aesPair.DecEnc := fun k x => (Config.aes k).symm_apply_apply x

theorem Config.aesPair_encDec : Config.aesPair.EncDec := fun k x => (Config.aes k).apply_symm_apply x

end Sys2Proof
end

