-- ==== Sys2Proof/Syntax.lean ====
section
/-! DEFINITION. The instructions of spec/opcode_table.json, and the words a host program is made of
(30_encoding.md R100 to R108). -/

namespace Sys2Proof

/-- One constructor per row of spec/opcode_table.json.
`rd` and `wr` are the host transactions (R66, R67). The other four are the CMD rows: the host transaction that writes
that row's command word to CMD (R101, R110; the row's "htw"). -/
inductive Instr where
  /-- `rd <reg>`: MemRead(off, 4), R66. -/
  | rd (off : Offset)
  /-- `wr <reg>, <value>`: MemWrite(off, 4, data), R67. -/
  | wr (off : Offset) (data : Word)
  /-- `wr CMD, 0x0`, R144. -/
  | nop
  /-- `wr CMD, 0x1`, R181. -/
  | wrap
  /-- `wr CMD, 0x2`, R201. -/
  | unwrap
  /-- `wr CMD, 0x3`, R143. -/
  | clear
  deriving DecidableEq, Repr

/-- What a command word decodes to (R102). -/
inductive Command where
  | nop
  | wrap
  | unwrap
  | clear
  | illegal
  deriving DecidableEq, Repr

/-- A word of a host program. The spec has two encodings, told apart by context (R108). -/
inductive HostWord where
  /-- A 64-bit host-transaction word (R104). -/
  | htw (w : BitVec 64)
  /-- A 32-bit command word, standing for the line `wr CMD, w` that issues it (R100, R108; log entry 5). -/
  | cmd (w : Word)
  deriving DecidableEq, Repr

end Sys2Proof
end

