-- ==== Sys2Proof/Machine/State.lean ====
section
/-! DEFINITION. The state of one engine instance (10_state.md R21, R24, R29, R42, R47) and the host's side of it: the
agent actions still to come and the response to the last transaction (R20, R66, R67, R76). -/

namespace Sys2Proof.Machine

/-- SEQ.PHASE (R42). -/
inductive Phase where
  | idle
  | run
  deriving DecidableEq, Repr

/-- SEQ.OP (R42). -/
inductive Op where
  | wrap
  | unwrap
  deriving DecidableEq, Repr

/-- The sequencer SEQ (R21, R42), each field at the width R21 gives it. -/
structure Seq where
  phase : Phase
  op : Op
  /-- number of data chunks -/
  n : BitVec 3
  /-- round -/
  j : BitVec 3
  /-- chunk index -/
  i : BitVec 2
  deriving DecidableEq, Repr

/-- R42: SEQ while idle, which reset, each completion and CLEAR establish. -/
def Seq.idle : Seq := { phase := .idle, op := .wrap, n := 0#3, j := 0#3, i := 0#2 }

/-- The complete state of one engine instance, element by element as R21 lists it.
S[0..39] of R24 is A followed by R[0..3]: it is the same storage and is held once (log entry 13).
ID is a constant, BUSY and irq are functions of the state, CMD has no storage, and the AES key schedule has no
architectural state (R21, R41; log entry 10). -/
structure Engine where
  /-- A, the integrity register (R24, R25) -/
  a : Chunk
  /-- R[0..3], the data registers (R24, R26) -/
  r : Vector Chunk 4
  /-- KEK[0..31] (R29) -/
  kek : Vector Byte 32
  /-- CTRL.IRQ_EN (R31) -/
  irqEn : Bool
  /-- STATUS.DONE (R35) -/
  done : Bool
  /-- STATUS.DROP (R36) -/
  drop : Bool
  /-- STATUS.ERR (R37) -/
  err : BitVec 4
  /-- KEK_LEN (R38) -/
  kekLen : Word
  /-- DATA_LEN (R39) -/
  dataLen : Word
  /-- OUT_LEN (R40) -/
  outLen : Word
  /-- SEQ (R42) -/
  seq : Seq
  deriving DecidableEq, Repr

/-- R47: the reset value of every state element. -/
def Engine.reset : Engine where
  a := 0#64
  r := Vector.replicate 4 0#64
  kek := Vector.replicate 32 0#8
  irqEn := false
  done := false
  drop := false
  err := 0#4
  kekLen := 0#32
  dataLen := 0#32
  outLen := 0#32
  seq := Seq.idle

/-- The bus response of a host transaction (R66, R67). -/
inductive Resp where
  | okay
  | err
  deriving DecidableEq, Repr

/-- What a host transaction returns: a read a response and data (R66), a write a response (R67). -/
inductive Reply where
  | read (resp : Resp) (data : Word)
  | write (resp : Resp)
  deriving DecidableEq, Repr

/-- One action of one of the three agents of R20. -/
inductive Event where
  /-- the host issues the transaction this word encodes -/
  | host (w : HostWord)
  /-- the engine takes one step, if it has one to take (log entry 3) -/
  | engine
  /-- reset -/
  | reset
  deriving DecidableEq, Repr

/-- The engine, and the host's side of the window.
`pending` is the interleaving of the agents' actions still to come, oldest first (R76; log entry 2), and `reply` is the
response of the last host transaction (log entry 4). Neither is engine state, and no host read depends on either. -/
structure State where
  engine : Engine
  pending : List Event
  reply : Option Reply
  deriving DecidableEq, Repr

/-- The machine right after reset (R47, R271), with no agent action outstanding. -/
def State.reset : State where
  engine := Engine.reset
  pending := []
  reply := none

/-- Why the machine stops with a fault. -/
inductive Fault where
  /-- Raised by an engine step when KEK_LEN is not 16, 24 or 32, where R6 gives the AES pair no key.
  Safe: R43 excludes such a state while a command runs, and Safety.lean's invariant rules it out (log entry 7). -/
  | aesKeyLength
  deriving DecidableEq, Repr

/-- Why the machine gives a word of the host program no meaning. -/
inductive Refusal where
  /-- Raised by an arm of exec whose instruction has no meaning yet. Safe. No arm of this model raises it. -/
  | notModelled (mnemonic : String)
  /-- Raised by step on an HTW with bits 62:44 not 0: R105, REFUSE "reserved HTW bits".
  Safe: such a word is not a transaction of the engine (log entry 17). -/
  | reservedHtwBits
  /-- Raised by step on a read HTW with DATA not 0: R105, REFUSE "read with data".
  Safe: such a word is not a transaction of the engine (log entry 17). -/
  | readWithData
  deriving DecidableEq, Repr

end Sys2Proof.Machine
end

