-- ==== Sys2Proof/Machine/Flags.lean ====
section
/-! DEFINITION. STATUS, its flags and codes, and the interrupt line (10_state.md R33 to R37, R44, R46; 60_exceptions.md
R240, R248). No arithmetic result sets a flag (R46). -/

namespace Sys2Proof.Machine

/-- The outcome codes of R240 that a command can leave in STATUS.ERR. Codes 6 to 15 are never produced. -/
inductive ErrCode where
  | none
  | invalidKekLength
  | invalidDataLength
  | dataTooLarge
  | integrityCheckFailed
  | illegalCommand
  deriving DecidableEq, Repr

/-- R240: the numeric value of a code. -/
def ErrCode.bits : ErrCode → BitVec 4
  | .none => 0#4
  | .invalidKekLength => 1#4
  | .invalidDataLength => 2#4
  | .dataTooLarge => 3#4
  | .integrityCheckFailed => 4#4
  | .illegalCommand => 5#4

/-- R34: BUSY is 1 exactly when SEQ.PHASE = RUN. -/
def Engine.busy (e : Engine) : Bool := decide (e.seq.phase = .run)

/-- R44, R248: the level output irq = STATUS.DONE ∧ CTRL.IRQ_EN. -/
def Engine.irq (e : Engine) : Bool := e.done && e.irqEn

/-- A one-bit field as the low bit of a register word. -/
def flagWord (b : Bool) : Word := (BitVec.ofBool b).setWidth 32

/-- R33: the read value of STATUS. -/
def Engine.statusWord (e : Engine) : Word :=
  e.err.setWidth 32 <<< 4 ||| flagWord e.drop <<< 2 ||| flagWord e.done <<< 1 ||| flagWord e.busy

/-- R31: the read value of CTRL. -/
def Engine.ctrlWord (e : Engine) : Word := flagWord e.irqEn

/-- R33: a STATUS write clears DONE if bit 1 of the value is set and DROP if bit 2 is, and changes nothing else. -/
def Engine.statusWrite (e : Engine) (v : Word) : Engine :=
  { e with done := e.done && !v.getLsbD 1, drop := e.drop && !v.getLsbD 2 }

/-- R31: a CTRL write takes bit 0; bits 31:1 are ignored. -/
def Engine.ctrlWrite (e : Engine) (v : Word) : Engine := { e with irqEn := v.getLsbD 0 }

/-- R36, R75, R141: the only record of a dropped write. -/
def Engine.dropWrite (e : Engine) : Engine := { e with drop := true }

end Sys2Proof.Machine
end

