-- ==== Sys2Proof/Machine/Icv.lean ====
section
/-! DEFINITION. The icv_calculator and the MSB/LSB helpers (44_icv_helpers.md R220 to R227). All are pure. -/

namespace Sys2Proof.Machine

/-- R222: the integrity constant. It is hardwired. -/
def icv : Chunk := 0xA6A6A6A6A6A6A6A6#64

/-- R220 on a byte sequence: the first k bytes. -/
def msbBytes (k : Nat) (buf : List Byte) : List Byte := buf.take k

/-- R221 on a byte sequence: the last k bytes. -/
def lsbBytes (k : Nat) (buf : List Byte) : List Byte := buf.drop (buf.length - k)

/-- R220 as the engine applies it: MSB(8, B) = B[127:64]. -/
def msb (b : Block) : Chunk := b.extractLsb' 64 64

/-- R221 as the engine applies it: LSB(8, B) = B[63:0]. -/
def lsb (b : Block) : Chunk := b.extractLsb' 0 64

/-- R224: the AES input A || R. -/
def block (a r : Chunk) : Block := a ++ r

/-- R223: t = (n·j + i + 1) mod 256. -/
def stepCounter (n j i : Nat) : Byte := BitVec.ofNat 8 (n * j + i + 1)

/-- R225: XORs t into byte 7 of A, the low-order byte. -/
def icvXor (a : Chunk) (t : Byte) : Chunk := a ^^^ t.setWidth 64

/-- R226: all 8 bytes of A equal 0xA6. -/
def icvCheck (a : Chunk) : Bool := a == icv

/-- R223 and R227: the counter of the sequencer's position. -/
def Seq.counter (q : Seq) : Byte := stepCounter q.n.toNat q.j.toNat q.i.toNat

end Sys2Proof.Machine
end

