-- ==== Sys2Proof/WellFormed.lean ====
section
/-! DEFINITION. Which words of a host program are well formed (30_encoding.md R105, R107).
A term of `Instr` carries OFF and DATA at their encoded widths, so every term of it has an encoding and needs no check
of its own; the checks the spec has are those on the words. -/

namespace Sys2Proof

/-- R104: bits 62:44 of an HTW are reserved and must be 0. -/
def HostWord.reservedZero : HostWord → Bool
  | .htw w => w.extractLsb' 44 19 == 0#19
  | .cmd _ => true

/-- R104: DATA of a read HTW must be 0. -/
def HostWord.readDataZero : HostWord → Bool
  | .htw w => w.getLsbD 63 || w.extractLsb' 0 32 == 0#32
  | .cmd _ => true

/-- R105: an HTW is a transaction of the engine exactly when neither of its two checks refuses it.
Every command word is one (R102: decoding is total on all 2^32 values). -/
def HostWord.wellFormed (h : HostWord) : Bool := h.reservedZero && h.readDataZero

/-- R100, R101: a command word names one of the four commands: its reserved bits are 0 and its OP is 0 to 3. -/
def HostWord.legalCommand : HostWord → Bool
  | .htw _ => false
  | .cmd w => w.extractLsb' 4 28 == 0#28 && decide (w.extractLsb' 0 4 ≤ 3#4)

end Sys2Proof
end

