-- ==== Sys2Proof/Decode.lean ====
section
/-! DEFINITION. The decoders and the encoder (30_encoding.md R100 to R108). -/

namespace Sys2Proof

/-- The offset of CMD (R62). -/
def cmdOffset : Offset := 0x008#12

/-- R102. -/
def decodeCmd (v : Word) : Command :=
  if v.extractLsb' 4 28 ≠ 0#28 then .illegal
  else if v.extractLsb' 0 4 = 0x0#4 then .nop
  else if v.extractLsb' 0 4 = 0x1#4 then .wrap
  else if v.extractLsb' 0 4 = 0x2#4 then .unwrap
  else if v.extractLsb' 0 4 = 0x3#4 then .clear
  else .illegal

/-- Why a word of a host program is no row of the opcode table. -/
inductive DecodeError where
  /-- R105: REFUSE "reserved HTW bits". -/
  | reservedHtwBits
  /-- R105: REFUSE "read with data". -/
  | readWithData
  /-- R102: the command word decodes to ILLEGAL. It is still a CMD write, with the outcome of R142. -/
  | illegalCommand (w : Word)
  deriving DecidableEq, Repr

/-- R105. -/
def decodeHtw (h : BitVec 64) : Except DecodeError Instr :=
  if h.extractLsb' 44 19 ≠ 0#19 then .error .reservedHtwBits
  else if h.getLsbD 63 = false ∧ h.extractLsb' 0 32 ≠ 0#32 then .error .readWithData
  else if h.getLsbD 63 then .ok (.wr (h.extractLsb' 32 12) (h.extractLsb' 0 32))
  else .ok (.rd (h.extractLsb' 32 12))

/-- The CMD row a command word is (R101, R102). -/
def decodeCommandWord (w : Word) : Except DecodeError Instr :=
  match decodeCmd w with
  | .nop => .ok .nop
  | .wrap => .ok .wrap
  | .unwrap => .ok .unwrap
  | .clear => .ok .clear
  | .illegal => .error (.illegalCommand w)

/-- The decoder of a host program's words: context tells the two encodings apart (R108). -/
def decodeWord : HostWord → Except DecodeError Instr
  | .htw h => decodeHtw h
  | .cmd w => decodeCommandWord w

/-- The HTW of R104, field by field from bit 63 down: W, RSVD, OFF, DATA. -/
def htwOf (w : Bool) (off : Offset) (data : Word) : BitVec 64 :=
  BitVec.ofBool w ++ 0#19 ++ off ++ data

/-- The words of an instruction, from the tables of R101 and R104. -/
def encode : Instr → HostWord
  | .rd off => .htw (htwOf false off 0#32)
  | .wr off data => .htw (htwOf true off data)
  | .nop => .cmd 0x00000000#32
  | .wrap => .cmd 0x00000001#32
  | .unwrap => .cmd 0x00000002#32
  | .clear => .cmd 0x00000003#32

/-- A row of spec/opcode_table.json as a word of a host program: the CMD rows have 32 bits, the HTW rows 64
(log entry 16). -/
def tableWord (nbits w : Nat) : HostWord :=
  if nbits = 32 then .cmd (BitVec.ofNat 32 w) else .htw (BitVec.ofNat 64 w)

/-- The instruction the decoder reads from a table word of `nbits` bits; none where it refuses, and none for a width
no row has (log entry 16). -/
def decodeTableWord (nbits w : Nat) : Option Instr :=
  if (nbits = 32 ∨ nbits = 64) ∧ w < 2 ^ nbits then
    match decodeWord (tableWord nbits w) with
    | .ok i => some i
    | .error _ => none
  else none

end Sys2Proof
end

