-- ==== Sys2Proof/Machine/Operands.lean ====
section
/-! DEFINITION. Where the operands are: the register map (20_memory.md R62), the byte views of A, R, KEK and the bus
words (00_scope.md R9; R63, R64), and the AES key of a command (30_encoding.md R103). -/

namespace Sys2Proof.Machine

/-- A register of the window, by R62. -/
inductive WindowReg where
  | id
  | ctrl
  | cmd
  | status
  | kekLen
  | dataLen
  | outLen
  | kek (k : Fin 8)
  | data (w : Fin 10)
  /-- an aligned offset that R62 does not list (R70) -/
  | reserved
  deriving DecidableEq, Repr

/-- R68: an access must be at an offset that is a multiple of 4. -/
def aligned (off : Offset) : Bool := off.extractLsb' 0 2 == 0#2

/-- R62: the register at an aligned offset. -/
def windowReg (off : Offset) : WindowReg :=
  if off = 0x000#12 then .id
  else if off = 0x004#12 then .ctrl
  else if off = cmdOffset then .cmd
  else if off = 0x00C#12 then .status
  else if off = 0x010#12 then .kekLen
  else if off = 0x014#12 then .dataLen
  else if off = 0x018#12 then .outLen
  else if h : 0x020 ≤ off.toNat ∧ off.toNat ≤ 0x03F then .kek ⟨(off.toNat - 0x020) / 4, by omega⟩
  else if h : 0x040 ≤ off.toNat ∧ off.toNat ≤ 0x067 then .data ⟨(off.toNat - 0x040) / 4, by omega⟩
  else .reserved

/-- R62: the offset of a named register. A reserved offset has no name, so `reserved` stands for 0x01C. -/
def WindowReg.offset : WindowReg → Offset
  | .id => 0x000#12
  | .ctrl => 0x004#12
  | .cmd => cmdOffset
  | .status => 0x00C#12
  | .kekLen => 0x010#12
  | .dataLen => 0x014#12
  | .outLen => 0x018#12
  | .kek k => BitVec.ofNat 12 (0x020 + 4 * k.val)
  | .data w => BitVec.ofNat 12 (0x040 + 4 * w.val)
  | .reserved => 0x01C#12

/-- R9: byte k of an 8-byte value; byte 0 is the most significant. -/
def chunkByte (v : Chunk) (k : Nat) : Byte := v.extractLsb' (8 * (7 - k)) 8

/-- R8, R9: an 8-byte value as a byte sequence. -/
def chunkBytes (v : Chunk) : List Byte := (List.range 8).map (chunkByte v)

/-- R8, R9: a 16-byte block as a byte sequence; byte 0 is bits [127:120]. -/
def blockBytes (b : Block) : List Byte := (List.range 16).map fun k => b.extractLsb' (8 * (15 - k)) 8

/-- R63: byte b of a bus word; the first byte is in bits [31:24]. -/
def wordByte (v : Word) (b : Nat) : Byte := v.extractLsb' (8 * (3 - b)) 8

/-- R63: the bus word of four bytes, the first in the most significant lane. -/
def packWord (b0 b1 b2 b3 : Byte) : Word := b0 ++ b1 ++ b2 ++ b3

/-- The five 64-bit registers of the wrap_state_register in order: A, then R[0..3] (R24). -/
def Engine.stateReg (e : Engine) (q : Fin 5) : Chunk :=
  if h : q.val = 0 then e.a else e.r[q.val - 1]'(by omega)

/-- Writes one of them. -/
def Engine.setStateReg (e : Engine) (q : Fin 5) (v : Chunk) : Engine :=
  if h : q.val = 0 then { e with a := v } else { e with r := e.r.set (q.val - 1) v (by omega) }

/-- R24: byte k of the 40 bytes S: A = S[0..8) and R[i] = S[8+8i .. 16+8i). -/
def Engine.sByte (e : Engine) (k : Fin 40) : Byte :=
  chunkByte (e.stateReg ⟨k.val / 8, by omega⟩) (k.val % 8)

/-- R64: DATAWORD(w): an even word is bits [63:32] of its register, an odd word bits [31:0]. -/
def Engine.dataWord (e : Engine) (w : Fin 10) : Word :=
  let v := e.stateReg ⟨w.val / 2, by omega⟩
  if w.val % 2 = 0 then v.extractLsb' 32 32 else v.extractLsb' 0 32

/-- R64: a write of v to DATAw replaces the four bytes of S that DATAw holds. -/
def Engine.setDataWord (e : Engine) (w : Fin 10) (v : Word) : Engine :=
  let old := e.stateReg ⟨w.val / 2, by omega⟩
  e.setStateReg ⟨w.val / 2, by omega⟩
    (if w.val % 2 = 0 then v ++ old.extractLsb' 0 32 else old.extractLsb' 32 32 ++ v)

/-- R64, R67: a write of v to KEKk sets KEK[4k+b] to byte b of v. -/
def Engine.setKekWord (e : Engine) (k : Fin 8) (v : Word) : Engine :=
  { e with kek := Vector.ofFn fun b => if b.val / 4 = k.val then wordByte v (b.val % 4) else e.kek[b] }

/-- R29, R103: the AES key KEK[0 .. KEK_LEN), for the three lengths that are keys (R6). -/
def Engine.aesKey (e : Engine) : Option AesKey :=
  if e.kekLen = 16#32 then some (.k128 (Vector.ofFn fun b => e.kek[b.val]'(by omega)))
  else if e.kekLen = 24#32 then some (.k192 (Vector.ofFn fun b => e.kek[b.val]'(by omega)))
  else if e.kekLen = 32#32 then some (.k256 (Vector.ofFn fun b => e.kek[b.val]'(by omega)))
  else none

/-- SEQ.I as an index of R[0..3]. -/
def Seq.index (q : Seq) : Fin 4 := ⟨q.i.toNat, q.i.isLt⟩

end Sys2Proof.Machine
end

