-- ==== Sys2Proof/Machine/Ops.lean ====
section
/-! DEFINITION. The operations every command shares: completion and the error path (40_commands.md R145; 60_exceptions.md
R244), zeroing, reset (70_reset_and_hazards.md R270) and the return of a response.
The engine has no trap (R246): `raiseErr` is the whole of taking an error, and the host's acknowledgement, in the place
of a return, is the STATUS write of Flags.lean (R247). -/

namespace Sys2Proof.Machine

/-- R145, Complete(code, outlen): the only way a command ends. -/
def Engine.complete (e : Engine) (code : ErrCode) (outlen : Word) : Engine :=
  { e with err := code.bits, outLen := outlen, done := true, seq := Seq.idle }

/-- R244, raise Err(code): Complete(code, 0), and no other effect. -/
def Engine.raiseErr (e : Engine) (code : ErrCode) : Engine := e.complete code 0#32

/-- All 40 bytes of S to zero (R143, R206). -/
def Engine.zeroState (e : Engine) : Engine := { e with a := 0#64, r := Vector.replicate 4 0#64 }

/-- All 32 bytes of KEK to zero (R143). -/
def Engine.zeroKek (e : Engine) : Engine := { e with kek := Vector.replicate 32 0#8 }

/-- R182, R202: the part of acceptance WRAP and UNWRAP share: SEQ to RUN at the first step's position, and DONE, ERR and
OUT_LEN to 0. -/
def Engine.start (e : Engine) (op : Op) (n : Nat) (j : BitVec 3) (i : BitVec 2) : Engine :=
  { e with
    seq := { phase := .run, op := op, n := BitVec.ofNat 3 n, j := j, i := i }
    done := false
    err := ErrCode.none.bits
    outLen := 0#32 }

/-- A register write that BUSY holds off: dropped while a command runs (R75), done otherwise. -/
def Engine.unlessBusy (e : Engine) (f : Engine → Engine) : Engine :=
  if e.busy then e.dropWrite else f e

/-- R270: every element of the engine to its reset value. The host's side keeps its queue and its last response
(log entry 9). -/
def State.applyReset (s : State) : State := { s with engine := Engine.reset }

/-- The end of a host transaction: the engine as the transaction leaves it, and the response returned. -/
def State.respond (s : State) (e : Engine) (reply : Reply) : State := { s with engine := e, reply := some reply }

end Sys2Proof.Machine
end

