-- ==== Sys2Proof/Machine/Validation.lean ====
section
/-! DEFINITION. Input validation (41_validation.md R160 to R168). -/

namespace Sys2Proof.Machine

/-- R168, Validate(op, KEK_LEN, DATA_LEN): the code, and the number N of data chunks when it is NONE.
The checks stand in the order of R163, and the first that fails decides. -/
def validate (op : Op) (kekLen dataLen : Word) : ErrCode × Nat :=
  let k := kekLen.toNat
  let d := dataLen.toNat
  if ¬ (k = 16 ∨ k = 24 ∨ k = 32) then (.invalidKekLength, 0)
  else if d % 8 ≠ 0 then (.invalidDataLength, 0)
  else
    match op with
    | .wrap =>
      if d = 0 then (.invalidDataLength, 0)
      else if d > k then (.dataTooLarge, 0)
      else (.none, d / 8)
    | .unwrap =>
      if d < 16 then (.invalidDataLength, 0)
      else if d > k + 8 then (.dataTooLarge, 0)
      else (.none, d / 8 - 1)

/-- R166, R181, R201: a command that fails validation raises its code and changes nothing else; one that passes is
accepted with its N. -/
def Engine.issue (e : Engine) (op : Op) (accept : Nat → Engine) : Engine :=
  match validate op e.kekLen e.dataLen with
  | (.none, n) => accept n
  | (code, _) => e.raiseErr code

end Sys2Proof.Machine
end

