-- ==== Sys2Proof/Machine/Unwrap.lean ====
section
/-! DEFINITION. UNWRAP (43_unwrap.md R201 to R206). -/

namespace Sys2Proof.Machine

/-- R202, AcceptUnwrap(N): A and R untouched, the sequencer at (5, N − 1). -/
def Engine.acceptUnwrap (e : Engine) (n : Nat) : Engine := e.start .unwrap n 5#3 (BitVec.ofNat 2 (n - 1))

/-- R201, IssueUnwrap(). -/
def Engine.issueUnwrap (e : Engine) : Engine := e.issue .unwrap e.acceptUnwrap

/-- R206, UnwrapFail(): all of S to zero, and INTEGRITY_CHECK_FAILED. -/
def Engine.unwrapFail (e : Engine) : Engine := e.zeroState.raiseErr .integrityCheckFailed

/-- R205, UnwrapFinish(): the integrity check. -/
def Engine.unwrapFinish (e : Engine) : Engine :=
  if icvCheck e.a then e.complete .none (BitVec.ofNat 32 (8 * e.seq.n.toNat)) else e.unwrapFail

/-- R204, Advance() for UNWRAP: index descending within a round, rounds descending. -/
def Engine.advanceUnwrap (e : Engine) : Engine :=
  if e.seq.i.toNat > 0 then { e with seq := { e.seq with i := e.seq.i - 1#2 } }
  else if e.seq.j.toNat > 0 then
    { e with seq := { e.seq with i := BitVec.ofNat 2 (e.seq.n.toNat - 1), j := e.seq.j - 1#3 } }
  else e.unwrapFinish

/-- R203, the register updates of UNWRAP_STEP: t goes into A before the block is formed. -/
def Engine.unwrapChain (aes : AesPair) (key : AesKey) (e : Engine) : Engine :=
  let b := aes.dec key (block (icvXor e.a e.seq.counter) e.r[e.seq.index])
  { e with a := msb b, r := e.r.set e.seq.index (lsb b) }

/-- R203, UNWRAP_STEP. -/
def Engine.unwrapStep (aes : AesPair) (key : AesKey) (e : Engine) : Engine := (e.unwrapChain aes key).advanceUnwrap

end Sys2Proof.Machine
end

