-- ==== Sys2Proof/Machine/Wrap.lean ====
section
/-! DEFINITION. WRAP (42_wrap.md R181 to R186). -/

namespace Sys2Proof.Machine

/-- R182, AcceptWrap(N): A to ICV, R untouched, the sequencer at (0, 0). -/
def Engine.acceptWrap (e : Engine) (n : Nat) : Engine := { e with a := icv }.start .wrap n 0#3 0#2

/-- R181, IssueWrap(). -/
def Engine.issueWrap (e : Engine) : Engine := e.issue .wrap e.acceptWrap

/-- R185, WrapComplete(): OUT_LEN to 8·(N+1). -/
def Engine.wrapComplete (e : Engine) : Engine := e.complete .none (BitVec.ofNat 32 (8 * (e.seq.n.toNat + 1)))

/-- R184, Advance() for WRAP: index ascending within a round, rounds ascending. -/
def Engine.advanceWrap (e : Engine) : Engine :=
  if e.seq.i.toNat + 1 < e.seq.n.toNat then { e with seq := { e.seq with i := e.seq.i + 1#2 } }
  else if e.seq.j.toNat < 5 then { e with seq := { e.seq with i := 0#2, j := e.seq.j + 1#3 } }
  else e.wrapComplete

/-- R183, the register updates of WRAP_STEP: t goes into A after the split. -/
def Engine.wrapChain (aes : AesPair) (key : AesKey) (e : Engine) : Engine :=
  let b := aes.enc key (block e.a e.r[e.seq.index])
  { e with a := icvXor (msb b) e.seq.counter, r := e.r.set e.seq.index (lsb b) }

/-- R183, WRAP_STEP. -/
def Engine.wrapStep (aes : AesPair) (key : AesKey) (e : Engine) : Engine := (e.wrapChain aes key).advanceWrap

end Sys2Proof.Machine
end

