-- ==== Sys2Proof/Machine/Command.lean ====
section
/-! DEFINITION. Command dispatch, the control commands, and the meanings of the CMD rows (40_commands.md R140 to R144). -/

namespace Sys2Proof.Machine

/-- R142, Illegal(v): the value is discarded. -/
def Engine.illegal (e : Engine) : Engine := e.raiseErr .illegalCommand

/-- R143, Clear(). DROP and CTRL.IRQ_EN are unchanged. -/
def Engine.clear (e : Engine) : Engine :=
  { e.zeroKek.zeroState with kekLen := 0#32, dataLen := 0#32 }.complete .none 0#32

/-- R144, Nop(). -/
def Engine.nop (e : Engine) : Engine := e

/-- R140, R141, CmdWrite(v): dropped undecoded while BUSY = 1, otherwise the command v decodes to. -/
def Engine.cmdWrite (e : Engine) (v : Word) : Engine :=
  e.unlessBusy fun e =>
    match decodeCmd v with
    | .nop => e.nop
    | .illegal => e.illegal
    | .clear => e.clear
    | .wrap => e.issueWrap
    | .unwrap => e.issueUnwrap

/-- The host transaction that issues a command: dropped while BUSY = 1 (R141), done otherwise, and answered OKAY
(R67). -/
def State.command (s : State) (f : Engine → Engine) : State := s.respond (s.engine.unlessBusy f) (.write .okay)

/-- NOP (R144). -/
def execNop (s : State) : Host.Outcome State Fault Refusal := .next (s.command Engine.nop)

/-- WRAP (R181). -/
def execWrap (s : State) : Host.Outcome State Fault Refusal := .next (s.command Engine.issueWrap)

/-- UNWRAP (R201). -/
def execUnwrap (s : State) : Host.Outcome State Fault Refusal := .next (s.command Engine.issueUnwrap)

/-- CLEAR (R143). -/
def execClear (s : State) : Host.Outcome State Fault Refusal := .next (s.command Engine.clear)

end Sys2Proof.Machine
end

