-- ==== Sys2Proof/Machine/Bus.lean ====
section
/-! DEFINITION. Host transactions on the register window, the meanings of `rd` and `wr` (20_memory.md R62 to R75). -/

namespace Sys2Proof.Machine

/-- R30: the value of ID. -/
def idWord : Word := 0x33940007#32

/-- The value an aligned read returns (R66, R70, R73, R74). -/
def Engine.readReg (e : Engine) : WindowReg → Word
  | .id => idWord
  | .ctrl => e.ctrlWord
  | .cmd => 0#32
  | .status => e.statusWord
  | .kekLen => e.kekLen
  | .dataLen => e.dataLen
  | .outLen => e.outLen
  | .kek _ => 0#32
  | .data w => if e.busy then 0#32 else e.dataWord w
  | .reserved => 0#32

/-- The effect of an aligned write (R67, R70, R75). -/
def Engine.writeReg (e : Engine) (v : Word) : WindowReg → Engine
  | .id => e
  | .ctrl => e.ctrlWrite v
  | .cmd => e.cmdWrite v
  | .status => e.statusWrite v
  | .kekLen => e.unlessBusy fun e => { e with kekLen := v }
  | .dataLen => e.unlessBusy fun e => { e with dataLen := v }
  | .outLen => e
  | .kek k => e.unlessBusy fun e => e.setKekWord k v
  | .data w => e.unlessBusy fun e => e.setDataWord w v
  | .reserved => e

/-- R66, MemRead(off, 4). -/
def Engine.memRead (e : Engine) (off : Offset) : Reply :=
  if aligned off then .read .okay (e.readReg (windowReg off)) else .read .err 0#32

/-- R67, MemWrite(off, 4, v): the engine after it. -/
def Engine.memWrite (e : Engine) (off : Offset) (v : Word) : Engine :=
  if aligned off then e.writeReg v (windowReg off) else e

/-- R67, MemWrite(off, 4, v): the response it returns. -/
def writeReply (off : Offset) : Reply := .write (if aligned off then .okay else .err)

/-- `rd` (R66): a read changes no engine state. -/
def execRd (off : Offset) (s : State) : Host.Outcome State Fault Refusal :=
  .next (s.respond s.engine (s.engine.memRead off))

/-- `wr` (R67). -/
def execWr (off : Offset) (data : Word) (s : State) : Host.Outcome State Fault Refusal :=
  .next (s.respond (s.engine.memWrite off data) (writeReply off))

end Sys2Proof.Machine
end

