-- ==== Sys2Proof/Machine/Schedule.lean ====
section
/-! DEFINITION. The three agents and their interleaving (10_state.md R20; 20_memory.md R76; 60_exceptions.md R250). -/

namespace Sys2Proof.Machine

/-- One engine step (R183, R203), for the command SEQ.OP names. -/
def Engine.step (aes : AesPair) (e : Engine) : Except Fault Engine :=
  match e.aesKey with
  | none => .error .aesKeyLength
  | some key =>
    match e.seq.op with
    | .wrap => .ok (e.wrapStep aes key)
    | .unwrap => .ok (e.unwrapStep aes key)

/-- The engine agent's turn. A step is enabled exactly while PHASE = RUN (R183, R203); while it is not, the engine
keeps all its state (R264; log entry 3). -/
def engineTurn (aes : AesPair) (s : State) : Host.Outcome State Fault Refusal :=
  if s.engine.busy then
    match s.engine.step aes with
    | .ok e => .next { s with engine := e }
    | .error f => .fault f
  else .next s

/-- The instruction a word of the host program stands for. An ILLEGAL command word is a write of it to CMD, whose outcome
is R142's; an ill-formed HTW is refused by name (R105; log entry 17). -/
def fetch (w : HostWord) : Except Refusal Instr :=
  match decodeWord w with
  | .ok i => .ok i
  | .error (.illegalCommand v) => .ok (.wr cmdOffset v)
  | .error .reservedHtwBits => .error .reservedHtwBits
  | .error .readWithData => .error .readWithData

/-- One action of one agent. -/
def runEvent (aes : AesPair) (s : State) : Event → Host.Outcome State Fault Refusal
  | .host w =>
    match fetch w with
    | .ok i => exec i s
    | .error r => .refused r
  | .engine => engineTurn aes s
  | .reset => .next s.applyReset

/-- The next action of the interleaving (R76): the oldest outstanding one, or, when none is outstanding, the engine's
turn: R76's fairness (log entry 2). -/
def stepWith (aes : AesPair) (s : State) : Host.Outcome State Fault Refusal :=
  match s.pending with
  | [] => engineTurn aes s
  | ev :: rest => runEvent aes { s with pending := rest } ev

/-- k actions, stopping at the first fault or refusal. -/
def runWith (aes : AesPair) : Nat → State → Host.Outcome State Fault Refusal
  | 0, s => .next s
  | k + 1, s =>
    match stepWith aes s with
    | .next s' => runWith aes k s'
    | .fault f => .fault f
    | .refused r => .refused r

end Sys2Proof.Machine
end

