-- ==== Sys2Proof/Machine/Step.lean ====
section
/-! DEFINITION. The machine's step, with the AES pair of Config.lean, and where the host's next word stands. -/

namespace Sys2Proof.Machine

/-- One action of one agent (R20, R76). -/
def step (s : State) : Host.Outcome State Fault Refusal := stepWith Config.aesPair s

/-- s with a table word as the next action: the host issues it first, and nothing else changes (log entries 6, 16). -/
def State.withFetchWord (s : State) (nbits w : Nat) : State :=
  { s with pending := .host (tableWord nbits w) :: s.pending }

end Sys2Proof.Machine
end

