-- ==== Sys2Proof/Machine/HostProgram.lean ====
section
/-! DEFINITION. Host programs: lines, pseudo-instructions, and a program's run beside the engine (30_encoding.md R109,
R110). Only the transactions the lines issue reach the engine. -/

namespace Sys2Proof.Machine

/-- R109: the lines of a program as the host's actions, one word a line. -/
def assemble (lines : List Instr) : List Event := lines.map fun i => .host (encode i)

/-- R109: `rd <reg>`. -/
def rdLine (r : WindowReg) : Instr := .rd r.offset

/-- R109: `wr <reg>, <value>`. -/
def wrLine (r : WindowReg) (v : Word) : Instr := .wr r.offset v

/-- R110: bytes 4k .. 4k+3 packed as in setkek. -/
def packAt (b : List Byte) (k : Nat) : Word :=
  packWord (b.getD (4 * k) 0#8) (b.getD (4 * k + 1) 0#8) (b.getD (4 * k + 2) 0#8) (b.getD (4 * k + 3) 0#8)

/-- The words of b written at consecutive word offsets from `base`. -/
def packLines (base : Nat) (b : List Byte) : List Instr :=
  (List.range (b.length / 4)).map fun k => .wr (BitVec.ofNat 12 (base + 4 * k)) (packAt b k)

/-- The pseudo-instructions of R110. -/
inductive Pseudo where
  | nop
  | wrap
  | unwrap
  | clear
  | ack
  | setkek (b : List Byte)
  | setplain (b : List Byte)
  | setwrapped (b : List Byte)
  | waitIdle
  | readout (m : Nat)
  deriving DecidableEq, Repr

/-- A line of an expanded program (R110). -/
inductive Line where
  /-- one transaction (R109) -/
  | one (i : Instr)
  /-- `L: rd STATUS` repeated until the result has bit 0 = 0 -/
  | untilIdle
  deriving DecidableEq, Repr

/-- R110: the expansion; none where the pseudo-instruction's own condition fails, and none for a `readout` past DATA9
(log entry 15). -/
def Pseudo.expand : Pseudo → Option (List Line)
  | .nop => some [.one (wrLine .cmd 0x0#32)]
  | .wrap => some [.one (wrLine .cmd 0x1#32)]
  | .unwrap => some [.one (wrLine .cmd 0x2#32)]
  | .clear => some [.one (wrLine .cmd 0x3#32)]
  | .ack => some [.one (wrLine .status 0x6#32)]
  | .setkek b =>
    if b.length % 4 = 0 ∧ b.length ≤ 32 then
      some ((wrLine .kekLen (BitVec.ofNat 32 b.length) :: packLines 0x020 b).map .one)
    else none
  | .setplain b =>
    if b.length % 8 = 0 ∧ b.length ≤ 32 then
      some ((wrLine .dataLen (BitVec.ofNat 32 b.length) :: packLines 0x048 b).map .one)
    else none
  | .setwrapped b =>
    if b.length % 8 = 0 ∧ b.length ≤ 40 then
      some ((wrLine .dataLen (BitVec.ofNat 32 b.length) :: packLines 0x040 b).map .one)
    else none
  | .waitIdle => some [.untilIdle]
  | .readout m =>
    if m ≤ 10 then some ((List.range m).map fun w => .one (.rd (BitVec.ofNat 12 (0x040 + 4 * w)))) else none

/-! ### The run of a program: the host issues its lines, the engine steps in between (R76) -/

/-- The transaction a line issues each time it is performed. -/
def Line.transaction : Line → Instr
  | .one i => i
  | .untilIdle => rdLine .status

/-- R110: whether a line is finished by a transaction with this response. The loop's exit test is bit 0 of the result. -/
def Line.ended : Line → Option Reply → Bool
  | .one _, _ => true
  | .untilIdle, some (.read _ data) => !data.getLsbD 0
  | .untilIdle, _ => false

/-- A host program under way: the machine, and the lines the host has not finished. -/
structure HostRun where
  state : State
  lines : List Line
  deriving DecidableEq, Repr

/-- The agent that acts next (R20). -/
inductive Agent where
  | host
  | engine
  | reset
  deriving DecidableEq, Repr

/-- f on the next state, with a stop kept. -/
def mapNext {α β : Type} (f : α → β) : Host.Outcome α Fault Refusal → Host.Outcome β Fault Refusal
  | .next s => .next (f s)
  | .fault r => .fault r
  | .refused r => .refused r

/-- One action of one agent while a program runs. The host performs its first unfinished line's transaction and stays at
a loop whose read saw BUSY = 1 (R110); with no line left it does nothing. -/
def HostRun.turn (aes : AesPair) (h : HostRun) : Agent → Host.Outcome HostRun Fault Refusal
  | .host =>
    match h.lines with
    | [] => .next h
    | line :: rest =>
      mapNext (fun s => { state := s, lines := if line.ended s.reply then rest else line :: rest })
        (runEvent aes h.state (.host (encode line.transaction)))
  | .engine => mapNext (fun s => { h with state := s }) (engineTurn aes h.state)
  | .reset => .next { h with state := h.state.applyReset }

/-- The run under a schedule (R76): any list of agents, and a loop ends in it only where its exit test is met. -/
def HostRun.run (aes : AesPair) : List Agent → HostRun → Host.Outcome HostRun Fault Refusal
  | [], h => .next h
  | agent :: rest, h =>
    match h.turn aes agent with
    | .next h' => run aes rest h'
    | .fault f => .fault f
    | .refused r => .refused r

end Sys2Proof.Machine
end

