-- ==== Sys2Proof/Machine/KeyWrap.lean ====
section
/-! DEFINITION. The source's pure functions, against which a whole command is judged (42_wrap.md R186; 43_unwrap.md R207).
A key of n chunks is a list of n 64-bit values in the source's chunk order; a wrapped key has A first. -/

namespace Sys2Proof.Machine

/-- The (round, index) pairs in WRAP's order, R184: j = 0..5, and within a round i = 0..n−1. -/
def wrapSchedule (n : Nat) : List (Nat × Nat) :=
  (List.range 6).flatMap fun j => (List.range n).map fun i => (j, i)

/-- The body of WrapFn's inner loop (R186), on A and the chunks R[0..n). -/
def wrapBody (aes : AesPair) (key : AesKey) (n : Nat) (v : Chunk × List Chunk) (p : Nat × Nat) : Chunk × List Chunk :=
  let b := aes.enc key (block v.1 (v.2.getD p.2 0#64))
  (icvXor (msb b) (stepCounter n p.1 p.2), v.2.set p.2 (lsb b))

/-- The body of UnwrapRegs' inner loop (R207). -/
def unwrapBody (aes : AesPair) (key : AesKey) (n : Nat) (v : Chunk × List Chunk) (p : Nat × Nat) : Chunk × List Chunk :=
  let b := aes.dec key (block (icvXor v.1 (stepCounter n p.1 p.2)) (v.2.getD p.2 0#64))
  (msb b, v.2.set p.2 (lsb b))

/-- R186, WrapFn(kek, P): the wrapped key A || R[0] || .. || R[n−1]. -/
def wrapFn (aes : AesPair) (key : AesKey) (plain : List Chunk) : List Chunk :=
  let v := (wrapSchedule plain.length).foldl (wrapBody aes key plain.length) (icv, plain)
  v.1 :: v.2

/-- R207, UnwrapRegs(kek, C) on C = A || R[0] || .. || R[n−1]: WRAP's pairs in reverse order (R204). -/
def unwrapRegs (aes : AesPair) (key : AesKey) (a : Chunk) (r : List Chunk) : Chunk × List Chunk :=
  (wrapSchedule r.length).reverse.foldl (unwrapBody aes key r.length) (a, r)

end Sys2Proof.Machine
end

