-- ==== Sys2Proof/Machine/Platform.lean ====
section
/-! DEFINITION. A platform of several instances (00_scope.md R7; 20_memory.md R61; 60_exceptions.md R254, R260, R262).
The bases and the number of instances are the platform's, so they are data of it and not constants of the model. -/

namespace Sys2Proof.Machine

/-- One instance: the base address its window is placed at, and its own state (R262). -/
structure Placed where
  base : Nat
  state : State
  deriving DecidableEq, Repr

/-- The instances of a platform, in the platform's own order. -/
abbrev Platform := List Placed

/-- R106: the host's full address of an offset. -/
def hostAddress (base : Nat) (off : Offset) : Nat := base + off.toNat

/-- R61: the offset of an address inside the window BASE .. BASE + 0xFFF. -/
def windowOffset (base addr : Nat) : Option Offset :=
  if base ≤ addr ∧ addr ≤ base + 0xFFF then some (BitVec.ofNat 12 (addr - base)) else none

/-- One action of instance k (R262): the other instances are not touched. No instance k, no action. -/
def Platform.stepAt (aes : AesPair) (p : Platform) (k : Nat) : Host.Outcome Platform Fault Refusal :=
  match p[k]? with
  | none => .next p
  | some d =>
    match stepWith aes d.state with
    | .next s => .next (p.set k { d with state := s })
    | .fault f => .fault f
    | .refused r => .refused r

/-- The instances' interrupt lines, which the platform routes (R248). -/
def Platform.irqLines (p : Platform) : List Bool := p.map fun d => d.state.engine.irq

end Sys2Proof.Machine
end

