-- ==== Sys2Proof/Safety.lean ====
section
/-! DEFINITION. What every run keeps, in the terms the statements use (10_state.md R34 to R43; 30_encoding.md R111). -/

namespace Sys2Proof.Machine

/-- The invariant of one engine instance. -/
structure Engine.Inv (e : Engine) : Prop where
  /-- R111, R240: codes 6 to 15 are never produced -/
  err_le : e.err.toNat ≤ 5
  /-- R42: SEQ while idle -/
  idle_seq : e.busy = false → e.seq = Seq.idle
  /-- R43 -/
  run_n : e.busy = true → 1 ≤ e.seq.n.toNat ∧ e.seq.n.toNat ≤ 4
  /-- R43 -/
  run_j : e.busy = true → e.seq.j.toNat ≤ 5
  /-- R43 -/
  run_i : e.busy = true → e.seq.i.toNat + 1 ≤ e.seq.n.toNat
  /-- R43 -/
  run_kek : e.busy = true → e.kekLen.toNat = 16 ∨ e.kekLen.toNat = 24 ∨ e.kekLen.toNat = 32
  /-- R43 -/
  run_data : e.busy = true →
    e.dataLen.toNat = match e.seq.op with
      | .wrap => 8 * e.seq.n.toNat
      | .unwrap => 8 * (e.seq.n.toNat + 1)
  /-- R35, R37, R40: acceptance clears them, and no host write sets them while BUSY = 1 -/
  run_clear : e.busy = true → e.done = false ∧ e.err = 0#4 ∧ e.outLen = 0#32
  /-- R40: OUT_LEN is 0 unless the last completed command succeeded -/
  out_err : e.outLen ≠ 0#32 → e.err = 0#4
  /-- R40, R43: an output length is a number of whole chunks, at most the DATA window -/
  out_len : e.outLen.toNat % 8 = 0 ∧ e.outLen.toNat ≤ 40

/-- The invariant of the machine. -/
def State.Inv (s : State) : Prop := s.engine.Inv

/-- R169: the KEK lengths and chunk counts that validation accepts. -/
abbrev AcceptedChunks (kekLen : Word) (n : Nat) : Prop :=
  1 ≤ n ∧ (kekLen.toNat = 16 ∧ n ≤ 2 ∨ kekLen.toNat = 24 ∧ n ≤ 3 ∨ kekLen.toNat = 32 ∧ n ≤ 4)

/-- How many engine steps the running command still needs (R45): the pairs from the sequencer's position to the end of
its schedule (R184, R204). -/
def Engine.stepsLeft (e : Engine) : Nat :=
  match e.seq.phase, e.seq.op with
  | .idle, _ => 0
  | .run, .wrap => 6 * e.seq.n.toNat - (e.seq.n.toNat * e.seq.j.toNat + e.seq.i.toNat)
  | .run, .unwrap => e.seq.n.toNat * e.seq.j.toNat + e.seq.i.toNat + 1

/-- The chunks R[0] .. R[n−1] as a list. -/
def Engine.chunks (e : Engine) (n : Nat) : List Chunk := e.r.toList.take n

/-- The operands and the progress of a command: all that R75 keeps the host from changing while BUSY = 1. -/
def Engine.work (e : Engine) : Chunk × Vector Chunk 4 × Vector Byte 32 × Word × Word × Seq :=
  (e.a, e.r, e.kek, e.kekLen, e.dataLen, e.seq)

end Sys2Proof.Machine
end

