-- ==== Sys2Proof/Certificates/Slice0/Obligations.lean ====
section
/-! DEFINITION. The statements for the provers. Each docstring names the rules of spec/ the statement formalises. -/

open Sys2Proof Sys2Proof.Machine

/-! ## Encoding -/

/-- R100 to R105: the words of every instruction decode to it, with every operand kept. -/
def Obligations.DecodeOfEncodeIsTheInstruction : Prop :=
  ∀ i : Instr, decodeWord (encode i) = .ok i

/-- R100 to R105: a word that decodes to an instruction is that instruction's only word. -/
def Obligations.EncodeOfDecodeIsTheWord : Prop :=
  ∀ (h : HostWord) (i : Instr), decodeWord h = .ok i → encode i = h

/-- R105, with its fields read as numbers: reserved bits, then a read with data, are refused by name; every other HTW is
the transaction its W, OFF and DATA say, and a misaligned OFF is one the engine answers with ERR. -/
def Obligations.HtwIsDecodedOrRefusedByName : Prop :=
  ∀ (h : BitVec 64) (s : State),
    (h.toNat / 2 ^ 44 % 2 ^ 19 ≠ 0 → decodeHtw h = .error .reservedHtwBits) ∧
    (h.toNat / 2 ^ 44 % 2 ^ 19 = 0 → h.toNat / 2 ^ 63 = 0 → h.toNat % 2 ^ 32 ≠ 0 →
      decodeHtw h = .error .readWithData) ∧
    (h.toNat / 2 ^ 44 % 2 ^ 19 = 0 → h.toNat / 2 ^ 63 = 1 → ∃ off data,
      decodeHtw h = .ok (.wr off data) ∧ off.toNat = h.toNat / 2 ^ 32 % 2 ^ 12 ∧ data.toNat = h.toNat % 2 ^ 32 ∧
      (off.toNat % 4 ≠ 0 → exec (.wr off data) s = .next { s with reply := some (.write .err) })) ∧
    (h.toNat / 2 ^ 44 % 2 ^ 19 = 0 → h.toNat / 2 ^ 63 = 0 → h.toNat % 2 ^ 32 = 0 → ∃ off,
      decodeHtw h = .ok (.rd off) ∧ off.toNat = h.toNat / 2 ^ 32 % 2 ^ 12 ∧
      (off.toNat % 4 ≠ 0 → exec (.rd off) s = .next { s with reply := some (.read .err 0#32) }))

/-- R102: the four valid command words are exactly 0 to 3, and every other value is ILLEGAL. -/
def Obligations.FourCommandWordsAreValid : Prop :=
  ∀ v : Word, decodeCmd v =
    if v = 0x00000000#32 then .nop
    else if v = 0x00000001#32 then .wrap
    else if v = 0x00000002#32 then .unwrap
    else if v = 0x00000003#32 then .clear
    else .illegal

/-- Words of the opcode table and of R109, one for each row, decode to the instruction they stand for. -/
def Obligations.TableWordsDecodeToTheirRows : Prop :=
  decodeTableWord 64 0x0000000C00000000 = some (.rd 0x00C#12) ∧
  decodeTableWord 64 0x800000401FA68B0A = some (.wr 0x040#12 0x1FA68B0A#32) ∧
  decodeTableWord 64 0x8000000800000001 = some (.wr 0x008#12 0x1#32) ∧
  decodeTableWord 32 0x00000000 = some .nop ∧
  decodeTableWord 32 0x00000001 = some .wrap ∧
  decodeTableWord 32 0x00000002 = some .unwrap ∧
  decodeTableWord 32 0x00000003 = some .clear ∧
  decodeTableWord 32 0x00000011 = none

/-! ## The step -/

/-- A step whose next action is a host word runs the instruction the word decodes to, on the state with that action
taken from the queue; an ILLEGAL command word runs as the write of that word to CMD. The queue is the model's own (log
entries 2 and 5). -/
def Obligations.StepRunsTheDecodedInstruction : Prop :=
  ∀ (s : State) (w : HostWord) (rest : List Event), s.pending = .host w :: rest →
    (∀ i, decodeWord w = .ok i → step s = exec i { s with pending := rest }) ∧
    (∀ v, decodeWord w = .error (.illegalCommand v) → step s = exec (.wr 0x008#12 v) { s with pending := rest })

/-- R20, R76, R250: one agent acts at a time. A reset action resets the engine; a host action performs the one
transaction its word stands for, or is refused, and takes nothing else from the queue; an engine action is the engine's
turn, which changes nothing while BUSY = 0; and when no action is outstanding the turn is the engine's (the queue, its
empty case, the idle turn, what reset keeps of the host's side and the refusal are the model's own, log entries 2, 3, 9
and 17). -/
def Obligations.EachStepIsOneAgentsAction : Prop :=
  ∀ (s : State) (rest : List Event),
    (s.pending = .reset :: rest → step s = .next { s with engine := Engine.reset, pending := rest }) ∧
    (∀ w, s.pending = .host w :: rest →
      (∀ i, fetch w = .ok i → ∃ t, step s = .next t ∧ exec i { s with pending := rest } = .next t ∧ t.pending = rest) ∧
      (∀ r, fetch w = .error r → step s = .refused r)) ∧
    (s.pending = .engine :: rest → s.engine.busy = false → step s = .next { s with pending := rest }) ∧
    (s.pending = [] → s.engine.busy = false → step s = .next s) ∧
    (s.pending = .engine :: rest → s.engine.busy = true →
      ∀ t, step { s with pending := [] } = .next t → step s = .next { t with pending := rest })

/-! ## The register window -/

/-- R66: every read completes, with the response and the data of its offset's case, and changes no engine state. -/
def Obligations.ReadReturnsTheRegister : Prop :=
  ∀ (s : State) (off : Offset), ∃ (resp : Resp) (data : Word),
    exec (.rd off) s = .next { s with reply := some (.read resp data) } ∧
    (off.toNat % 4 ≠ 0 → resp = .err ∧ data = 0#32) ∧
    (off.toNat % 4 = 0 → resp = .okay) ∧
    (off.toNat = 0x000 → data = 0x33940007#32) ∧
    (off.toNat = 0x004 → data = if s.engine.irqEn then 1#32 else 0#32) ∧
    (off.toNat = 0x008 → data = 0#32) ∧
    (off.toNat = 0x00C → data.toNat =
      s.engine.err.toNat * 16 + s.engine.drop.toNat * 4 + s.engine.done.toNat * 2 + s.engine.busy.toNat) ∧
    (off.toNat = 0x010 → data = s.engine.kekLen) ∧
    (off.toNat = 0x014 → data = s.engine.dataLen) ∧
    (off.toNat = 0x018 → data = s.engine.outLen) ∧
    (0x020 ≤ off.toNat → off.toNat ≤ 0x03C → data = 0#32) ∧
    (∀ w : Fin 10, off.toNat = 0x040 + 4 * w.val → data = if s.engine.busy then 0#32 else s.engine.dataWord w) ∧
    (off.toNat = 0x01C ∨ 0x068 ≤ off.toNat → data = 0#32)

/-- R67: every write completes, with the response of its alignment and the effect of its offset's case, byte by byte for
KEK and S, and changes nothing else. A CMD write is CmdWrite (R140, R141). -/
def Obligations.WriteChangesTheRegister : Prop :=
  ∀ (s : State) (off : Offset) (v : Word), ∃ e : Engine,
    exec (.wr off v) s =
      .next { s with engine := e, reply := some (.write (if off.toNat % 4 = 0 then .okay else .err)) } ∧
    (off.toNat % 4 ≠ 0 → e = s.engine) ∧
    (off.toNat = 0x000 → e = s.engine) ∧
    (off.toNat = 0x004 → e = { s.engine with irqEn := v.getLsbD 0 }) ∧
    (off.toNat = 0x008 → e = s.engine.cmdWrite v) ∧
    (off.toNat = 0x00C → e =
      { s.engine with
        done := if v.getLsbD 1 then false else s.engine.done
        drop := if v.getLsbD 2 then false else s.engine.drop }) ∧
    (off.toNat = 0x010 → e = if s.engine.busy then { s.engine with drop := true } else { s.engine with kekLen := v }) ∧
    (off.toNat = 0x014 → e = if s.engine.busy then { s.engine with drop := true } else { s.engine with dataLen := v }) ∧
    (off.toNat = 0x018 → e = s.engine) ∧
    (∀ k : Fin 8, off.toNat = 0x020 + 4 * k.val →
      if s.engine.busy then e = { s.engine with drop := true }
      else e = { s.engine with kek := e.kek } ∧
        ∀ b : Fin 32, e.kek[b] =
          if b.val / 4 = k.val then BitVec.ofNat 8 (v.toNat / 2 ^ (8 * (3 - b.val % 4))) else s.engine.kek[b]) ∧
    (∀ w : Fin 10, off.toNat = 0x040 + 4 * w.val →
      if s.engine.busy then e = { s.engine with drop := true }
      else e = { s.engine with a := e.a, r := e.r } ∧
        ∀ b : Fin 40, e.sByte b =
          if b.val / 4 = w.val then BitVec.ofNat 8 (v.toNat / 2 ^ (8 * (3 - b.val % 4))) else s.engine.sByte b) ∧
    (off.toNat = 0x01C ∨ 0x068 ≤ off.toNat → e = s.engine)

/-- R64: DATAw is the number of its four bytes of S, first byte most significant, so A is DATA0 then DATA1 and R[i] is
DATA(2+2i) then DATA(3+2i); a write of v sets those bytes, and KEK writes work the same way. -/
def Obligations.BusWordsCarryBytesBigEndian : Prop :=
  ∀ e : Engine,
    (∀ w : Fin 10, (e.dataWord w).toNat =
      (e.sByte ⟨4 * w.val, by omega⟩).toNat * 2 ^ 24 + (e.sByte ⟨4 * w.val + 1, by omega⟩).toNat * 2 ^ 16 +
      (e.sByte ⟨4 * w.val + 2, by omega⟩).toNat * 2 ^ 8 + (e.sByte ⟨4 * w.val + 3, by omega⟩).toNat) ∧
    (e.a = e.dataWord 0 ++ e.dataWord 1) ∧
    (∀ i : Fin 4, e.r[i] = e.dataWord ⟨2 + 2 * i.val, by omega⟩ ++ e.dataWord ⟨3 + 2 * i.val, by omega⟩) ∧
    (∀ (w : Fin 10) (v : Word) (b : Fin 40), (e.setDataWord w v).sByte b =
      if b.val / 4 = w.val then BitVec.ofNat 8 (v.toNat / 2 ^ (8 * (3 - b.val % 4))) else e.sByte b) ∧
    (∀ (k : Fin 8) (v : Word) (b : Fin 32), (e.setKekWord k v).kek[b] =
      if b.val / 4 = k.val then BitVec.ofNat 8 (v.toNat / 2 ^ (8 * (3 - b.val % 4))) else e.kek[b])

/-- R68: a misaligned transaction gets the ERR response, changes no state, and a read returns data 0. -/
def Obligations.MisalignedAccessGetsErr : Prop :=
  ∀ (s : State) (off : Offset) (v : Word), off.toNat % 4 ≠ 0 →
    exec (.rd off) s = .next { s with reply := some (.read .err 0#32) } ∧
    exec (.wr off v) s = .next { s with reply := some (.write .err) }

/-- R70: an aligned offset that R62 does not list reads as 0 and ignores writes, with the OKAY response. -/
def Obligations.ReservedOffsetsReadZeroIgnoreWrites : Prop :=
  ∀ (s : State) (off : Offset) (v : Word),
    off.toNat % 4 = 0 → off.toNat = 0x01C ∨ (0x068 ≤ off.toNat ∧ off.toNat ≤ 0xFFC) →
    exec (.rd off) s = .next { s with reply := some (.read .okay 0#32) } ∧
    exec (.wr off v) s = .next { s with reply := some (.write .okay) }

/-- R21, R73, R74: no read depends on the KEK bytes, on the model's own fields (log entries 2 and 4), or, while BUSY = 1,
on A, R or the sequencer's position. -/
def Obligations.ReadsRevealNoKekAndNoPartialState : Prop :=
  ∀ (s : State) (off : Offset) (kek : Vector Byte 32) (a : Chunk) (r : Vector Chunk 4) (seq : Seq)
    (pending : List Event) (reply : Option Reply),
    ∃ got : Reply,
      exec (.rd off) s = .next { s with reply := some got } ∧
      (exec (.rd off) { s with engine := { s.engine with kek := kek }, pending := pending, reply := reply } =
        .next { s with engine := { s.engine with kek := kek }, pending := pending, reply := some got }) ∧
      (s.engine.busy = true → seq.phase = .run →
        exec (.rd off) { s with engine := { s.engine with a := a, r := r, seq := seq } } =
          .next { s with engine := { s.engine with a := a, r := r, seq := seq }, reply := some got })

/-- R75: while BUSY = 1, a write to an operand register or to CMD is dropped, sets DROP and gets OKAY; CTRL and STATUS
writes take effect; writes to ID, OUT_LEN and reserved offsets are ignored; and no host transaction changes the running
command's operands or progress. -/
def Obligations.WritesWhileBusyAreDropped : Prop :=
  ∀ (s : State) (v : Word), s.engine.busy = true →
    (∀ off : Offset, off.toNat % 4 = 0 →
      off.toNat = 0x008 ∨ off.toNat = 0x010 ∨ off.toNat = 0x014 ∨ (0x020 ≤ off.toNat ∧ off.toNat ≤ 0x064) →
      exec (.wr off v) s = .next { s with engine := { s.engine with drop := true }, reply := some (.write .okay) }) ∧
    (exec (.wr 0x004#12 v) s =
      .next { s with engine := { s.engine with irqEn := v.getLsbD 0 }, reply := some (.write .okay) }) ∧
    (exec (.wr 0x00C#12 v) s =
      .next { s with
        engine := { s.engine with
          done := if v.getLsbD 1 then false else s.engine.done
          drop := if v.getLsbD 2 then false else s.engine.drop }
        reply := some (.write .okay) }) ∧
    (∀ off : Offset, off.toNat % 4 = 0 →
      off.toNat = 0x000 ∨ off.toNat = 0x018 ∨ off.toNat = 0x01C ∨ 0x068 ≤ off.toNat →
      exec (.wr off v) s = .next { s with reply := some (.write .okay) }) ∧
    (∀ i : Instr, ∃ t, exec i s = .next t ∧ t.engine.work = s.engine.work)

/-- R272: while BUSY = 0, writes to two different operand registers give the same state in either order. -/
def Obligations.OperandWritesCommute : Prop :=
  ∀ (s : State) (off off' : Offset) (v v' : Word), s.engine.busy = false → off ≠ off' →
    off.toNat % 4 = 0 → off.toNat = 0x010 ∨ off.toNat = 0x014 ∨ (0x020 ≤ off.toNat ∧ off.toNat ≤ 0x064) →
    off'.toNat % 4 = 0 → off'.toNat = 0x010 ∨ off'.toNat = 0x014 ∨ (0x020 ≤ off'.toNat ∧ off'.toNat ≤ 0x064) →
    ∃ t t' u, exec (.wr off v) s = .next t ∧ exec (.wr off' v') t = .next u ∧
      exec (.wr off' v') s = .next t' ∧ exec (.wr off v) t' = .next u

/-! ## Commands -/

/-- R140: a CMD write while BUSY = 0 runs the command its value encodes, and a row of the command table is that write. -/
def Obligations.CmdWriteRunsItsCommand : Prop :=
  ∀ s : State,
    exec (.wr 0x008#12 0x0#32) s = exec .nop s ∧
    exec (.wr 0x008#12 0x1#32) s = exec .wrap s ∧
    exec (.wr 0x008#12 0x2#32) s = exec .unwrap s ∧
    exec (.wr 0x008#12 0x3#32) s = exec .clear s

/-- R141: a CMD write of any value while BUSY = 1 only sets DROP, and its response is OKAY. -/
def Obligations.CommandWhileBusyIsDropped : Prop :=
  ∀ (s : State) (v : Word), s.engine.busy = true →
    ∀ i, i = .wr 0x008#12 v ∨ i = .nop ∨ i = .wrap ∨ i = .unwrap ∨ i = .clear →
      exec i s = .next { s with engine := { s.engine with drop := true }, reply := some (.write .okay) }

/-- R142: a CMD write of a value that is no command, while BUSY = 0, completes at once with code 5. -/
def Obligations.IllegalCommandCompletesWithCodeFive : Prop :=
  ∀ (s : State) (v : Word), s.engine.busy = false → v.toNat / 2 ^ 4 ≠ 0 ∨ 4 ≤ v.toNat % 2 ^ 4 →
    exec (.wr 0x008#12 v) s =
      .next { s with
        engine := { s.engine with err := 5#4, done := true, outLen := 0#32, seq := Seq.idle }
        reply := some (.write .okay) }

/-- R143: CLEAR while BUSY = 0 zeroes KEK, S and the lengths and completes at once; a second CLEAR changes nothing. -/
def Obligations.ClearZeroesKeyMaterial : Prop :=
  ∀ s : State, s.engine.busy = false → ∃ t,
    exec .clear s = .next t ∧
    t = { s with engine := t.engine, reply := some (.write .okay) } ∧
    t.engine =
      { s.engine with
        a := 0#64, r := t.engine.r, kek := t.engine.kek, kekLen := 0#32, dataLen := 0#32, outLen := 0#32
        err := 0#4, done := true, seq := Seq.idle } ∧
    (∀ i : Fin 4, t.engine.r[i] = 0#64) ∧
    (∀ b : Fin 32, t.engine.kek[b] = 0#8) ∧
    exec .clear t = .next t

/-- R144: NOP while BUSY = 0 has no effect on the engine; while BUSY = 1 it is dropped and sets DROP. -/
def Obligations.NopHasNoEffect : Prop :=
  ∀ s : State,
    (s.engine.busy = false → exec .nop s = .next { s with reply := some (.write .okay) }) ∧
    (s.engine.busy = true →
      exec .nop s = .next { s with engine := { s.engine with drop := true }, reply := some (.write .okay) })

/-! ## Validation -/

/-- R169: the accepted length pairs, with their N, are exactly the table's. -/
def Obligations.AcceptedLengthsAreTheTable : Prop :=
  ∀ (kekLen dataLen : Word) (n : Nat),
    (validate .wrap kekLen dataLen = (.none, n) ↔ AcceptedChunks kekLen n ∧ dataLen.toNat = 8 * n) ∧
    (validate .unwrap kekLen dataLen = (.none, n) ↔ AcceptedChunks kekLen n ∧ dataLen.toNat = 8 * (n + 1))

/-- R160 to R165: each failure code, with the order of R163: a check decides only when those before it pass. -/
def Obligations.FirstFailingCheckDecides : Prop :=
  ∀ (op : Op) (kekLen dataLen : Word),
    let kekOk := kekLen.toNat = 16 ∨ kekLen.toNat = 24 ∨ kekLen.toNat = 32
    let tooShort := match op with
      | .wrap => dataLen.toNat = 0
      | .unwrap => dataLen.toNat = 0 ∨ dataLen.toNat = 8
    let tooLarge := match op with
      | .wrap => dataLen.toNat > kekLen.toNat
      | .unwrap => dataLen.toNat > kekLen.toNat + 8
    ((validate op kekLen dataLen).1 = .invalidKekLength ↔ ¬ kekOk) ∧
    ((validate op kekLen dataLen).1 = .invalidDataLength ↔ kekOk ∧ (dataLen.toNat % 8 ≠ 0 ∨ tooShort)) ∧
    ((validate op kekLen dataLen).1 = .dataTooLarge ↔ kekOk ∧ dataLen.toNat % 8 = 0 ∧ ¬ tooShort ∧ tooLarge) ∧
    ((validate op kekLen dataLen).1 = .none ↔ kekOk ∧ dataLen.toNat % 8 = 0 ∧ ¬ tooShort ∧ ¬ tooLarge)

/-- R166, R240: a WRAP or UNWRAP that fails validation completes at once with the number of its code, 1, 2 or 3, and
changes no other state. -/
def Obligations.FailedValidationChangesOnlyTheOutcome : Prop :=
  ∀ (s : State) (op : Op) (i : Instr) (code : ErrCode), s.engine.busy = false →
    (op = .wrap ∧ i = .wrap ∨ op = .unwrap ∧ i = .unwrap) →
    (validate op s.engine.kekLen s.engine.dataLen).1 = code → code ≠ .none →
    ∃ err : BitVec 4,
      exec i s =
        .next { s with
          engine := { s.engine with err := err, done := true, outLen := 0#32, seq := Seq.idle }
          reply := some (.write .okay) } ∧
      (code = .invalidKekLength ∧ err = 1#4 ∨ code = .invalidDataLength ∧ err = 2#4 ∨
       code = .dataTooLarge ∧ err = 3#4)

/-! ## WRAP -/

/-- R182: an accepted WRAP loads ICV into A, clears DONE, ERR and OUT_LEN, and starts at (0, 0) with N chunks. -/
def Obligations.WrapIsAccepted : Prop :=
  ∀ (s : State) (n : Nat), s.engine.busy = false → AcceptedChunks s.engine.kekLen n →
    s.engine.dataLen.toNat = 8 * n → ∃ t,
    exec .wrap s = .next t ∧ t.engine.irq = false ∧
    t = { s with
      engine := { s.engine with
        a := 0xA6A6A6A6A6A6A6A6#64, done := false, err := 0#4, outLen := 0#32
        seq := { phase := .run, op := .wrap, n := BitVec.ofNat 3 n, j := 0#3, i := 0#2 } }
      reply := some (.write .okay) }

/-- R183: WRAP_STEP encrypts A || R[i], puts the first half XOR t into A and the second half into R[i], advances the
sequencer (R184), and changes no other operand. -/
def Obligations.WrapStepChainsOneBlock : Prop :=
  ∀ (aes : AesPair) (s : State) (key : AesKey), s.pending = [] → s.engine.aesKey = some key →
    s.engine.seq.phase = .run → s.engine.seq.op = .wrap →
    let b := aes.enc key (BitVec.ofNat 128 (s.engine.a.toNat * 2 ^ 64 + (s.engine.r[s.engine.seq.index]).toNat))
    let t := (s.engine.seq.n.toNat * s.engine.seq.j.toNat + s.engine.seq.i.toNat + 1) % 256
    ∃ u, stepWith aes s = .next u ∧
      u.engine.a.toNat = (b.toNat / 2 ^ 64) ^^^ t ∧
      (u.engine.r[s.engine.seq.index]).toNat = b.toNat % 2 ^ 64 ∧
      (∀ k : Fin 4, k ≠ s.engine.seq.index → u.engine.r[k] = s.engine.r[k]) ∧
      u = { s with engine := { s.engine with
        a := u.engine.a, r := u.engine.r, seq := u.engine.seq
        done := u.engine.done, err := u.engine.err, outLen := u.engine.outLen } } ∧
      (s.engine.seq.i.toNat + 1 < s.engine.seq.n.toNat →
        u.engine.seq = { s.engine.seq with i := s.engine.seq.i + 1#2 }) ∧
      (s.engine.seq.n.toNat ≤ s.engine.seq.i.toNat + 1 → s.engine.seq.j.toNat < 5 →
        u.engine.seq = { s.engine.seq with i := 0#2, j := s.engine.seq.j + 1#3 }) ∧
      (s.engine.seq.n.toNat ≤ s.engine.seq.i.toNat + 1 → 5 ≤ s.engine.seq.j.toNat → u.engine.busy = false) ∧
      (u.engine.busy = true → u.engine.done = s.engine.done ∧ u.engine.err = s.engine.err ∧
        u.engine.outLen = s.engine.outLen)

/-- R184: after k steps an accepted WRAP stands at the pair (j, i) with N·j + i = k, until the 6·N-th step ends it. -/
def Obligations.WrapVisitsThePairsInOrder : Prop :=
  ∀ (aes : AesPair) (s t : State) (n k : Nat), s.pending = [] → s.engine.busy = false →
    AcceptedChunks s.engine.kekLen n → s.engine.dataLen.toNat = 8 * n → exec .wrap s = .next t →
    ∃ u, runWith aes k t = .next u ∧
      (k < 6 * n → u.engine.busy = true ∧ u.engine.seq.i.toNat < n ∧ u.engine.seq.j.toNat ≤ 5 ∧
        n * u.engine.seq.j.toNat + u.engine.seq.i.toNat = k) ∧
      (6 * n ≤ k → u.engine.busy = false)

/-- R185: the step at (5, N−1) ends the command with ERR 0, DONE 1, OUT_LEN 8·(N+1) and SEQ idle. -/
def Obligations.LastWrapStepCompletes : Prop :=
  ∀ (aes : AesPair) (s : State), s.engine.Inv → s.pending = [] → s.engine.busy = true → s.engine.seq.op = .wrap →
    s.engine.seq.j.toNat = 5 → s.engine.seq.i.toNat + 1 = s.engine.seq.n.toNat →
    ∃ u, stepWith aes s = .next u ∧
      u.engine.err = 0#4 ∧ u.engine.done = true ∧ u.engine.seq = Seq.idle ∧ u.engine.busy = false ∧
      u.engine.outLen.toNat = 8 * (s.engine.seq.n.toNat + 1)

/-- R186: a WRAP run to completion leaves WrapFn of the KEK and the plain key in S, OUT_LEN = DATA_LEN + 8, and every
other byte of S, the KEK and the lengths as they were. -/
def Obligations.WrapComputesWrapFn : Prop :=
  ∀ (aes : AesPair) (s : State) (n : Nat) (key : AesKey), s.pending = [] → s.engine.busy = false →
    AcceptedChunks s.engine.kekLen n → s.engine.dataLen.toNat = 8 * n → s.engine.aesKey = some key →
    ∃ t u, exec .wrap s = .next t ∧ runWith aes (6 * n) t = .next u ∧
      u.engine.a :: u.engine.chunks n = wrapFn aes key (s.engine.chunks n) ∧
      (∀ i : Fin 4, n ≤ i.val → u.engine.r[i] = s.engine.r[i]) ∧
      u.engine.outLen.toNat = 8 * (n + 1) ∧ u.engine.outLen = s.engine.dataLen + 8#32 ∧
      u = { s with
        engine := { s.engine with
          a := u.engine.a, r := u.engine.r, outLen := u.engine.outLen
          err := 0#4, done := true, seq := Seq.idle }
        reply := some (.write .okay) }

/-! ## UNWRAP -/

/-- R202: an accepted UNWRAP leaves A and R, clears DONE, ERR and OUT_LEN, and starts at (5, N−1) with N chunks. -/
def Obligations.UnwrapIsAccepted : Prop :=
  ∀ (s : State) (n : Nat), s.engine.busy = false → AcceptedChunks s.engine.kekLen n →
    s.engine.dataLen.toNat = 8 * (n + 1) →
    exec .unwrap s =
      .next { s with
        engine := { s.engine with
          done := false, err := 0#4, outLen := 0#32
          seq := { phase := .run, op := .unwrap, n := BitVec.ofNat 3 n, j := 5#3, i := BitVec.ofNat 2 (n - 1) } }
        reply := some (.write .okay) }

/-- R203: UNWRAP_STEP XORs t into A before it decrypts A || R[i], puts the halves into A and R[i], advances the sequencer
(R204), and changes nothing else; stated for every step but the last, whose check may zero S (R205, R206). -/
def Obligations.UnwrapStepChainsOneBlock : Prop :=
  ∀ (aes : AesPair) (s : State) (key : AesKey), s.pending = [] → s.engine.aesKey = some key →
    s.engine.seq.phase = .run → s.engine.seq.op = .unwrap → 0 < s.engine.seq.j.toNat + s.engine.seq.i.toNat →
    let t := (s.engine.seq.n.toNat * s.engine.seq.j.toNat + s.engine.seq.i.toNat + 1) % 256
    let b := aes.dec key
      (BitVec.ofNat 128 ((s.engine.a.toNat ^^^ t) * 2 ^ 64 + (s.engine.r[s.engine.seq.index]).toNat))
    ∃ u, stepWith aes s = .next u ∧
      u.engine.a.toNat = b.toNat / 2 ^ 64 ∧
      (u.engine.r[s.engine.seq.index]).toNat = b.toNat % 2 ^ 64 ∧
      (∀ k : Fin 4, k ≠ s.engine.seq.index → u.engine.r[k] = s.engine.r[k]) ∧
      u = { s with engine := { s.engine with a := u.engine.a, r := u.engine.r, seq := u.engine.seq } } ∧
      (0 < s.engine.seq.i.toNat → u.engine.seq = { s.engine.seq with i := s.engine.seq.i - 1#2 }) ∧
      (s.engine.seq.i.toNat = 0 → 0 < s.engine.seq.j.toNat →
        u.engine.seq =
          { s.engine.seq with i := BitVec.ofNat 2 (s.engine.seq.n.toNat - 1), j := s.engine.seq.j - 1#3 })

/-- R204: after k steps an accepted UNWRAP stands at the pair that WRAP visits as its (6·N − k)-th, until the 6·N-th step
ends it. -/
def Obligations.UnwrapVisitsThePairsInReverse : Prop :=
  ∀ (aes : AesPair) (s t : State) (n k : Nat), s.pending = [] → s.engine.busy = false →
    AcceptedChunks s.engine.kekLen n → s.engine.dataLen.toNat = 8 * (n + 1) → exec .unwrap s = .next t →
    ∃ u, runWith aes k t = .next u ∧
      (k < 6 * n → u.engine.busy = true ∧ u.engine.seq.i.toNat < n ∧ u.engine.seq.j.toNat ≤ 5 ∧
        n * u.engine.seq.j.toNat + u.engine.seq.i.toNat + 1 + k = 6 * n) ∧
      (6 * n ≤ k → u.engine.busy = false)

/-- R205, R206: the step at (0, 0) compares the A it makes with ICV. On a match the command ends with ERR 0, OUT_LEN 8·N,
A = ICV and the R it made; on a mismatch all of S is zero and the command ends with ERR 4 and OUT_LEN 0. -/
def Obligations.LastUnwrapStepChecksIntegrity : Prop :=
  ∀ (aes : AesPair) (s : State) (key : AesKey), s.engine.Inv → s.pending = [] → s.engine.aesKey = some key →
    s.engine.busy = true → s.engine.seq.op = .unwrap → s.engine.seq.j.toNat = 0 → s.engine.seq.i.toNat = 0 →
    let b := aes.dec key (block (s.engine.a ^^^ 1#64) s.engine.r[0])
    ∃ u, stepWith aes s = .next u ∧
      u = { s with engine := { s.engine with
        a := u.engine.a, r := u.engine.r, outLen := u.engine.outLen, err := u.engine.err
        done := true, seq := Seq.idle } } ∧
      (b.toNat / 2 ^ 64 = 0xA6A6A6A6A6A6A6A6 →
        u.engine.err = 0#4 ∧ u.engine.outLen.toNat = 8 * s.engine.seq.n.toNat ∧ u.engine.a = 0xA6A6A6A6A6A6A6A6#64 ∧
        (u.engine.r[0]).toNat = b.toNat % 2 ^ 64 ∧ ∀ k : Fin 4, k ≠ 0 → u.engine.r[k] = s.engine.r[k]) ∧
      (b.toNat / 2 ^ 64 ≠ 0xA6A6A6A6A6A6A6A6 →
        u.engine.err = 4#4 ∧ u.engine.outLen = 0#32 ∧ ∀ k : Fin 40, u.engine.sByte k = 0#8)

/-- R207: an UNWRAP run to completion gives UnwrapRegs of the KEK and the wrapped key when its A' is ICV, and otherwise
an integrity failure with all of S zero. -/
def Obligations.UnwrapComputesUnwrapRegs : Prop :=
  ∀ (aes : AesPair) (s : State) (n : Nat) (key : AesKey), s.pending = [] → s.engine.busy = false →
    AcceptedChunks s.engine.kekLen n → s.engine.dataLen.toNat = 8 * (n + 1) → s.engine.aesKey = some key →
    let out := unwrapRegs aes key s.engine.a (s.engine.chunks n)
    ∃ t u, exec .unwrap s = .next t ∧ runWith aes (6 * n) t = .next u ∧
      u = { s with
        engine := { s.engine with
          a := u.engine.a, r := u.engine.r, outLen := u.engine.outLen, err := u.engine.err
          done := true, seq := Seq.idle }
        reply := some (.write .okay) } ∧
      (out.1 = icv →
        u.engine.err = 0#4 ∧ u.engine.chunks n = out.2 ∧ u.engine.a = icv ∧ u.engine.outLen.toNat = 8 * n ∧
        ∀ i : Fin 4, n ≤ i.val → u.engine.r[i] = s.engine.r[i]) ∧
      (out.1 ≠ icv → u.engine.err = 4#4 ∧ u.engine.outLen = 0#32 ∧ ∀ k : Fin 40, u.engine.sByte k = 0#8)

/-- R208: for every AES pair whose decryption undoes its encryption, WRAP, then DATA_LEN <- OUT_LEN, then UNWRAP ends
with ERR 0 and the plain key back in R[0..N). -/
def Obligations.UnwrapUndoesWrap : Prop :=
  ∀ (aes : AesPair) (s : State) (n : Nat), aes.DecEnc → s.pending = [] → s.engine.busy = false →
    AcceptedChunks s.engine.kekLen n → s.engine.dataLen.toNat = 8 * n →
    ∃ t1 t2 t3 t4 t5,
      exec .wrap s = .next t1 ∧ runWith aes (6 * n) t1 = .next t2 ∧
      exec (.wr 0x014#12 t2.engine.outLen) t2 = .next t3 ∧
      exec .unwrap t3 = .next t4 ∧ runWith aes (6 * n) t4 = .next t5 ∧
      t5.engine.err = 0#4 ∧ t5.engine.busy = false ∧ t5.engine.done = true ∧
      t5.engine.chunks n = s.engine.chunks n ∧ t5.engine.r = s.engine.r

/-- R209, its first sentence: for a fixed KEK, UnwrapRegs is a bijection on wrapped keys of n+1 chunks, so a changed
wrapped key changes (A', R'). -/
def Obligations.UnwrapRegsIsABijection : Prop :=
  ∀ (aes : AesPair) (key : AesKey) (n : Nat), aes.DecEnc → aes.EncDec → 1 ≤ n → n ≤ 4 →
    (∀ (a : Chunk) (r : List Chunk), r.length = n → (unwrapRegs aes key a r).2.length = n) ∧
    (∀ (a a' : Chunk) (r r' : List Chunk), r.length = n → r'.length = n →
      unwrapRegs aes key a r = unwrapRegs aes key a' r' → a = a' ∧ r = r') ∧
    (∀ (a : Chunk) (r : List Chunk), r.length = n → ∃ a' r', r'.length = n ∧ unwrapRegs aes key a' r' = (a, r))

/-! ## icv_calculator and helpers -/

/-- R220, R221, R224, on byte sequences: MSB and LSB are the first and last 8 bytes of a block, and the AES input is A's
bytes followed by R's, the 128-bit value A·2^64 + R. -/
def Obligations.HalvesAreTheFirstAndLastBytes : Prop :=
  ∀ (b : Block) (a r : Chunk),
    chunkBytes (msb b) = msbBytes 8 (blockBytes b) ∧
    chunkBytes (lsb b) = lsbBytes 8 (blockBytes b) ∧
    blockBytes (block a r) = chunkBytes a ++ chunkBytes r ∧
    (block a r).toNat = a.toNat * 2 ^ 64 + r.toNat

/-- R228 (a) to (e). -/
def Obligations.HelperIdentities : Prop :=
  ∀ (b : Block) (a r : Chunk) (t : Byte),
    block (msb b) (lsb b) = b ∧
    msb (block a r) = a ∧ lsb (block a r) = r ∧
    icvXor (icvXor a t) t = a ∧
    icvXor a 0#8 = a ∧
    (∀ k, k < 7 → chunkByte (icvXor a t) k = chunkByte a k) ∧
    chunkByte (icvXor a t) 7 = chunkByte a 7 ^^^ t

/-- R222, R226: the integrity check passes exactly when every byte of A is A6. -/
def Obligations.IntegrityCheckComparesEveryByte : Prop :=
  ∀ a : Chunk, icvCheck a = true ↔ ∀ k, k < 8 → chunkByte a k = 0xA6#8

/-- R223, R229: the counter is (n·j + i + 1) mod 256; on the engine's domain the mod is never active; in WRAP's order the
counters of a command are 1, 2, .., 6·n. -/
def Obligations.StepCounterRunsFromOneToSixN : Prop :=
  (∀ n j i, (stepCounter n j i).toNat = (n * j + i + 1) % 256) ∧
  ∀ n, 1 ≤ n → n ≤ 4 →
    (∀ j i, j ≤ 5 → i < n → (stepCounter n j i).toNat = n * j + i + 1 ∧ n * j + i + 1 ≤ 24) ∧
    (wrapSchedule n).map (fun p => (stepCounter n p.1 p.2).toNat) = (List.range (6 * n)).map (· + 1)

/-! ## Outcomes, interrupt, reset -/

/-- R241: the codes each command can end with, at its issue and at its last step. -/
def Obligations.EachCommandHasItsOutcomes : Prop :=
  ∀ (aes : AesPair) (s t : State), s.engine.busy = false →
    (exec .wrap s = .next t → t.engine.err.toNat ≤ 3) ∧
    (exec .unwrap s = .next t → t.engine.err.toNat ≤ 3) ∧
    (exec .clear s = .next t → t.engine.err = 0#4) ∧
    (∀ v : Word, 4 ≤ v.toNat → exec (.wr 0x008#12 v) s = .next t → t.engine.err = 5#4) ∧
    (exec .nop s = .next t → t.engine.err = s.engine.err) ∧
    (∀ u w : State, u.pending = [] → u.engine.busy = true → stepWith aes u = .next w → w.engine.busy = false →
      (u.engine.seq.op = .wrap → w.engine.err = 0#4) ∧
      (u.engine.seq.op = .unwrap → w.engine.err = 0#4 ∨ w.engine.err = 4#4))

/-- R44, R247, R248: irq is DONE with IRQ_EN; a STATUS write with bit 1 set clears it, masking it leaves DONE pending,
and it is 0 while a command runs. -/
def Obligations.InterruptIsDoneAndEnabled : Prop :=
  ∀ (s t : State) (v : Word),
    s.engine.irq = (s.engine.done && s.engine.irqEn) ∧
    (exec (.wr 0x00C#12 v) s = .next t → v.getLsbD 1 = true → t.engine.irq = false) ∧
    (exec (.wr 0x00C#12 v) s = .next t → v.getLsbD 1 = false → t.engine.irq = s.engine.irq) ∧
    (exec (.wr 0x004#12 v) s = .next t → t.engine.irq = (s.engine.done && v.getLsbD 0) ∧ t.engine.done = s.engine.done) ∧
    (s.engine.Inv → s.engine.busy = true → s.engine.irq = false)

/-- R47, R270: reset, at any point and while a command runs, sets every element to its reset value; the machine starts
there, and ID reads its constant. -/
def Obligations.ResetSetsEveryElement : Prop :=
  (∀ (s : State) (rest : List Event), s.pending = .reset :: rest →
    ∃ t, step s = .next t ∧ t.engine = State.reset.engine) ∧
  State.reset.engine.a = 0#64 ∧
  (∀ i : Fin 4, State.reset.engine.r[i] = 0#64) ∧
  (∀ b : Fin 32, State.reset.engine.kek[b] = 0#8) ∧
  State.reset.engine.irqEn = false ∧ State.reset.engine.done = false ∧ State.reset.engine.drop = false ∧
  State.reset.engine.err = 0#4 ∧
  State.reset.engine.kekLen = 0#32 ∧ State.reset.engine.dataLen = 0#32 ∧ State.reset.engine.outLen = 0#32 ∧
  State.reset.engine.seq = { phase := .idle, op := .wrap, n := 0#3, j := 0#3, i := 0#2 } ∧
  State.reset.engine.busy = false ∧ State.reset.engine.irq = false ∧
  exec (.rd 0x000#12) State.reset = .next { State.reset with reply := some (.read .okay 0x33940007#32) }

/-! ## What every run keeps -/

/-- The invariant of Safety.lean holds after reset. -/
def Obligations.ResetMeetsTheInvariant : Prop := State.reset.Inv

/-- R42, R43, R111: every step keeps the invariant of Safety.lean. -/
def Obligations.EveryStepKeepsTheInvariant : Prop :=
  ∀ s t : State, s.Inv → step s = .next t → t.Inv

/-- R105, R246: no step faults in a state that meets the invariant, and a step refuses only an ill-formed HTW (that the
machine stops there is the model's choice, log entries 7 and 17). -/
def Obligations.OnlyIllFormedWordsStopTheMachine : Prop :=
  ∀ s : State, s.Inv →
    (∃ t, step s = .next t) ∨
    (∃ w rest, s.pending = .host w :: rest ∧ w.wellFormed = false ∧
      (step s = .refused .reservedHtwBits ∨ step s = .refused .readWithData))

/-- R34: BUSY is 1 exactly when SEQ.PHASE = RUN; it becomes 1 only when a WRAP or UNWRAP is accepted, and 0 only at the last engine step or at reset. -/
def Obligations.BusyChangesOnlyAtAcceptanceAndCompletion : Prop :=
  ∀ s t : State, s.Inv → step s = .next t →
    (s.engine.busy = true ↔ s.engine.seq.phase = .run) ∧
    (s.engine.busy = false → t.engine.busy = true →
      ∃ w rest i n, s.pending = .host w :: rest ∧ decodeWord w = .ok i ∧ AcceptedChunks s.engine.kekLen n ∧
        ((i = .wrap ∨ i = .wr 0x008#12 1#32) ∧ s.engine.dataLen.toNat = 8 * n ∨
         (i = .unwrap ∨ i = .wr 0x008#12 2#32) ∧ s.engine.dataLen.toNat = 8 * (n + 1))) ∧
    (s.engine.busy = true → t.engine.busy = false →
      (∃ rest, s.pending = .reset :: rest) ∨
      (s.pending = [] ∨ ∃ rest, s.pending = .engine :: rest) ∧ s.engine.stepsLeft = 1 ∧ t.engine.done = true)

/-- R35, R37, R40: ERR and OUT_LEN change, and DONE is set, only when a command completes, is accepted, or at reset;
otherwise DONE changes only by a STATUS write with bit 1 set. A completion with an OUT_LEN has ERR = 0. -/
def Obligations.OutcomeChangesOnlyAtCompletionAndAcceptance : Prop :=
  ∀ s t : State, s.Inv → step s = .next t →
    (t.engine.err = s.engine.err ∧ t.engine.outLen = s.engine.outLen ∧
      (t.engine.done = s.engine.done ∨ t.engine.done = false ∧ ∃ w rest v, s.pending = .host w :: rest ∧
        decodeWord w = .ok (.wr 0x00C#12 v) ∧ v.getLsbD 1 = true)) ∨
    (∃ rest, s.pending = .reset :: rest) ∨
    (s.engine.busy = false ∧ t.engine.busy = true ∧
      t.engine.done = false ∧ t.engine.err = 0#4 ∧ t.engine.outLen = 0#32) ∨
    (t.engine.busy = false ∧ t.engine.done = true ∧ (t.engine.outLen ≠ 0#32 → t.engine.err = 0#4) ∧
      (s.engine.busy = true ∧ s.engine.stepsLeft = 1 ∨
       s.engine.busy = false ∧ ∃ w rest i, s.pending = .host w :: rest ∧ fetch w = .ok i ∧
         (i = .wrap ∨ i = .unwrap ∨ i = .clear ∨ ∃ v, i = .wr 0x008#12 v)))

/-- R36, R75: DROP is set only by a dropped write, which is a CMD row or an aligned write to CMD, KEK_LEN, DATA_LEN, KEK
or DATA while BUSY = 1, and cleared only by a STATUS write with bit 2 set or by reset. -/
def Obligations.DropChangesOnlyByDroppedWriteAndAck : Prop :=
  ∀ s t : State, step s = .next t →
    (s.engine.drop = false → t.engine.drop = true →
      s.engine.busy = true ∧ ∃ w rest i, s.pending = .host w :: rest ∧ fetch w = .ok i ∧
        (i = .nop ∨ i = .wrap ∨ i = .unwrap ∨ i = .clear ∨ ∃ off v, i = .wr off v ∧ off.toNat % 4 = 0 ∧
          (off.toNat = 0x008 ∨ off.toNat = 0x010 ∨ off.toNat = 0x014 ∨ 0x020 ≤ off.toNat ∧ off.toNat ≤ 0x064))) ∧
    (s.engine.drop = true → t.engine.drop = false →
      (∃ rest, s.pending = .reset :: rest) ∨
      ∃ w rest v, s.pending = .host w :: rest ∧ decodeWord w = .ok (.wr 0x00C#12 v) ∧ v.getLsbD 2 = true)

/-- R29, R38, R39: KEK, KEK_LEN and DATA_LEN change only by a host write to them, by CLEAR or by reset. -/
def Obligations.OnlyTheHostChangesKekAndLengths : Prop :=
  ∀ s t : State, step s = .next t →
    s.engine.kek = t.engine.kek ∧ s.engine.kekLen = t.engine.kekLen ∧ s.engine.dataLen = t.engine.dataLen ∨
    (∃ rest, s.pending = .reset :: rest) ∨
    s.engine.busy = false ∧ ∃ w rest i, s.pending = .host w :: rest ∧ decodeWord w = .ok i ∧
      (i = .clear ∨ i = .wr 0x008#12 3#32 ∨ ∃ off v, i = .wr off v ∧
        (off.toNat = 0x010 ∧ s.engine.kek = t.engine.kek ∧ s.engine.dataLen = t.engine.dataLen ∨
         off.toNat = 0x014 ∧ s.engine.kek = t.engine.kek ∧ s.engine.kekLen = t.engine.kekLen ∨
         0x020 ≤ off.toNat ∧ off.toNat ≤ 0x03C ∧
           s.engine.kekLen = t.engine.kekLen ∧ s.engine.dataLen = t.engine.dataLen))

/-- R6, R29, R103: the AES key of a command is KEK[0 .. KEK_LEN) for the three key lengths, so an engine step does not
depend on the bytes at and above KEK_LEN. -/
def Obligations.KekBytesAboveTheLengthAreIgnored : Prop :=
  ∀ (aes : AesPair) (e : Engine) (kek : Vector Byte 32),
    (e.aesKey.map AesKey.byteList =
      if e.kekLen.toNat = 16 ∨ e.kekLen.toNat = 24 ∨ e.kekLen.toNat = 32 then
        some (e.kek.toList.take e.kekLen.toNat)
      else none) ∧
    ((∀ b : Fin 32, b.val < e.kekLen.toNat → kek[b] = e.kek[b]) →
      (∀ e', Engine.step aes e = .ok e' → Engine.step aes { e with kek := kek } = .ok { e' with kek := kek }) ∧
      (∀ f, Engine.step aes e = .error f → Engine.step aes { e with kek := kek } = .error f))

/-- R45, R76, R277: a running command completes after exactly the steps its position leaves, whatever the AES pair. -/
def Obligations.RunningCommandCompletesInItsSteps : Prop :=
  ∀ (aes : AesPair) (s : State), s.Inv → s.pending = [] → s.engine.busy = true →
    1 ≤ s.engine.stepsLeft ∧ s.engine.stepsLeft ≤ 24 ∧
    (∀ k, k < s.engine.stepsLeft → ∃ t, runWith aes k s = .next t ∧ t.engine.busy = true) ∧
    (∃ t, runWith aes s.engine.stepsLeft s = .next t ∧ t.engine.busy = false ∧ t.engine.done = true)

/-- R71, R75, R76: whatever well-formed transactions the host puts between the engine's steps, a running command's
operands and progress are those of the same number of engine steps alone. -/
def Obligations.HostTrafficCannotAlterARunningCommand : Prop :=
  ∀ (aes : AesPair) (q : List Event) (s : State), s.Inv → s.engine.busy = true → s.pending = q →
    (∀ ev ∈ q, ev = .engine ∨ ∃ w : HostWord, ev = .host w ∧ w.wellFormed = true) →
    q.count .engine < s.engine.stepsLeft →
    ∃ t u, runWith aes q.length s = .next t ∧ runWith aes (q.count .engine) { s with pending := [] } = .next u ∧
      t.pending = [] ∧ t.engine.busy = true ∧ t.engine.work = u.engine.work

/-! ## Host programs and platforms -/

/-- R110: from an idle engine, the lines of `setkek` leave KEK_LEN = L and KEK[0..L) the bytes given, and change nothing
else of the engine. -/
def Obligations.SetkekLoadsTheKek : Prop :=
  ∀ (aes : AesPair) (s : State) (b : List Byte) (lines : List Instr), s.engine.busy = false →
    Pseudo.expand (.setkek b) = some (lines.map .one) → s.pending = assemble lines →
    lines.length = b.length / 4 + 1 ∧
    ∃ t, runWith aes lines.length s = .next t ∧
      t.engine = { s.engine with kekLen := BitVec.ofNat 32 b.length, kek := t.engine.kek } ∧
      ∀ k : Fin 32, t.engine.kek[k] = b.getD k.val s.engine.kek[k]

/-- R61, R106: the host address BASE + OFF is the window's offset OFF, and the addresses outside BASE .. BASE + 0xFFF are
none of its offsets. -/
def Obligations.WindowIsFourKilobytesAtBase : Prop :=
  ∀ (base addr : Nat) (off : Offset),
    windowOffset base (hostAddress base off) = some off ∧
    (windowOffset base addr = none ↔ addr < base ∨ base + 0xFFF < addr)

/-- R262: an action of one instance has no effect on another. -/
def Obligations.InstancesAreIndependent : Prop :=
  ∀ (aes : AesPair) (p q : Platform) (k m : Nat), Platform.stepAt aes p k = .next q → m ≠ k →
    q[m]? = p[m]? ∧ q.length = p.length

/-- R110: `wait_idle` reads STATUS, and is finished by that read exactly when the result has bit 0 = 0; bit 0 is BUSY. -/
def Obligations.WaitIdleRepeatsUntilAReadSeesIdle : Prop :=
  Pseudo.expand .waitIdle = some [.untilIdle] ∧
  ∀ (aes : AesPair) (h : HostRun) (rest : List Line), h.lines = .untilIdle :: rest →
    ∃ result : Word, result.getLsbD 0 = h.state.engine.busy ∧
      h.turn aes .host = .next
        { state := { h.state with reply := some (.read .okay result) }
          lines := if result.getLsbD 0 then h.lines else rest }

/-- R76, R77, R110: `wait_idle` from a running command, under any schedule without a reset. It does not end before the
command's last engine step, however many reads it makes; the first read after that step ends it, and then the engine is
what the command's steps alone make it. -/
def Obligations.WaitIdleEndsAtTheCompletionPoint : Prop :=
  ∀ (aes : AesPair) (q : List Agent) (h : HostRun) (rest : List Line), h.state.Inv → h.state.engine.busy = true →
    h.lines = .untilIdle :: rest → .reset ∉ q →
    (q.count .engine < h.state.engine.stepsLeft → ∃ g u,
      h.run aes q = .next g ∧ runWith aes (q.count .engine) { h.state with pending := [] } = .next u ∧
      g.lines = h.lines ∧ g.state.engine = u.engine ∧ g.state.engine.busy = true) ∧
    (q.count .engine + 1 = h.state.engine.stepsLeft → ∃ g u,
      h.run aes (q ++ [.engine, .host]) = .next g ∧
      runWith aes h.state.engine.stepsLeft { h.state with pending := [] } = .next u ∧
      g.lines = rest ∧ g.state.engine = u.engine ∧ g.state.engine.busy = false ∧ g.state.engine.done = true)
end

