-- ==== Sys2Proof/Laws/Decode.lean ====
section
/-! SUPPORT. The fields of an HTW and of a command word as numbers (30_encoding.md R100, R104), for the proofs about
the decoders. -/

namespace Sys2Proof

/-- A field of a word is the number its bits make. -/
theorem extractLsb'_eq_iff {w len : Nat} (x : BitVec w) (start : Nat) (y : BitVec len) :
    x.extractLsb' start len = y ↔ x.toNat / 2 ^ start % 2 ^ len = y.toNat := by
  rw [← BitVec.toNat_inj, BitVec.extractLsb'_toNat, Nat.shiftRight_eq_div_pow]

theorem extractLsb'_eq_ofNat {w : Nat} (x : BitVec w) (start len : Nat) :
    x.extractLsb' start len = BitVec.ofNat len (x.toNat / 2 ^ start) := by
  rw [extractLsb'_eq_iff, BitVec.toNat_ofNat]

/-- R104: bit 63 is the top bit of the word. -/
theorem htw_w_iff (h : BitVec 64) : h.getLsbD 63 = true ↔ h.toNat / 2 ^ 63 = 1 := by
  have := h.isLt
  simp only [BitVec.getLsbD, Nat.testBit_eq_decide_div_mod_eq, decide_eq_true_eq]
  omega

theorem htw_r_iff (h : BitVec 64) : h.getLsbD 63 = false ↔ h.toNat / 2 ^ 63 = 0 := by
  have := h.isLt
  rw [← Bool.not_eq_true, htw_w_iff]
  omega

/-- R104: the number an HTW's fields make. -/
theorem htwOf_toNat (w : Bool) (off : Offset) (data : Word) :
    (htwOf w off data).toNat = w.toNat * 2 ^ 63 + off.toNat * 2 ^ 32 + data.toNat := by
  have ho := off.isLt
  have hd := data.isLt
  show BitVec.toNat (BitVec.ofBool w ++ 0#19 ++ off ++ data : BitVec (1 + 19 + 12 + 32)) = _
  rw [BitVec.toNat_append, BitVec.toNat_append, BitVec.toNat_append,
    ← Nat.shiftLeft_add_eq_or_of_lt (by decide : (0#19).toNat < 2 ^ 19),
    ← Nat.shiftLeft_add_eq_or_of_lt ho, ← Nat.shiftLeft_add_eq_or_of_lt hd]
  simp only [Nat.shiftLeft_eq, BitVec.toNat_ofBool, BitVec.toNat_ofNat]
  omega

/-- R102 by the number of the value. -/
theorem decodeCmd_cases (v : Word) :
    v.toNat = 0 ∧ decodeCmd v = .nop ∨ v.toNat = 1 ∧ decodeCmd v = .wrap ∨ v.toNat = 2 ∧ decodeCmd v = .unwrap ∨
      v.toNat = 3 ∧ decodeCmd v = .clear ∨ 4 ≤ v.toNat ∧ decodeCmd v = .illegal := by
  have hv := v.isLt
  unfold decodeCmd
  simp only [ne_eq, extractLsb'_eq_iff, BitVec.toNat_ofNat]
  repeat' split
  all_goals simp only [reduceCtorEq, and_false, and_true, or_false, false_or]
  all_goals omega

end Sys2Proof
end

