-- ==== Sys2Proof/Laws/State.lean ====
section
/-! SUPPORT. One lemma per field per named update of the state, so that a proof never unfolds an update. -/

namespace Sys2Proof.Machine

/-! ### State -/

@[simp] theorem State.respond_engine (s : State) (e : Engine) (x : Reply) : (s.respond e x).engine = e := rfl
@[simp] theorem State.respond_pending (s : State) (e : Engine) (x : Reply) : (s.respond e x).pending = s.pending := rfl
@[simp] theorem State.respond_reply (s : State) (e : Engine) (x : Reply) : (s.respond e x).reply = some x := rfl
@[simp] theorem State.command_engine (s : State) (f : Engine → Engine) :
    (s.command f).engine = s.engine.unlessBusy f := rfl
@[simp] theorem State.command_pending (s : State) (f : Engine → Engine) : (s.command f).pending = s.pending := rfl
@[simp] theorem State.command_reply (s : State) (f : Engine → Engine) :
    (s.command f).reply = some (.write .okay) := rfl
@[simp] theorem State.applyReset_engine (s : State) : s.applyReset.engine = Engine.reset := rfl
@[simp] theorem State.applyReset_pending (s : State) : s.applyReset.pending = s.pending := rfl
@[simp] theorem State.applyReset_reply (s : State) : s.applyReset.reply = s.reply := rfl

/-! ### Complete (R145) and acceptance (R182, R202) -/

section
variable (e : Engine) (c : ErrCode) (l : Word)

@[simp] theorem Engine.complete_a : (e.complete c l).a = e.a := rfl
@[simp] theorem Engine.complete_r : (e.complete c l).r = e.r := rfl
@[simp] theorem Engine.complete_kek : (e.complete c l).kek = e.kek := rfl
@[simp] theorem Engine.complete_irqEn : (e.complete c l).irqEn = e.irqEn := rfl
@[simp] theorem Engine.complete_done : (e.complete c l).done = true := rfl
@[simp] theorem Engine.complete_drop : (e.complete c l).drop = e.drop := rfl
@[simp] theorem Engine.complete_err : (e.complete c l).err = c.bits := rfl
@[simp] theorem Engine.complete_kekLen : (e.complete c l).kekLen = e.kekLen := rfl
@[simp] theorem Engine.complete_dataLen : (e.complete c l).dataLen = e.dataLen := rfl
@[simp] theorem Engine.complete_outLen : (e.complete c l).outLen = l := rfl
@[simp] theorem Engine.complete_seq : (e.complete c l).seq = Seq.idle := rfl
@[simp] theorem Engine.complete_busy : (e.complete c l).busy = false := rfl
end

section
variable (e : Engine) (op : Op) (n : Nat) (j : BitVec 3) (i : BitVec 2)

@[simp] theorem Engine.start_a : (e.start op n j i).a = e.a := rfl
@[simp] theorem Engine.start_r : (e.start op n j i).r = e.r := rfl
@[simp] theorem Engine.start_kek : (e.start op n j i).kek = e.kek := rfl
@[simp] theorem Engine.start_irqEn : (e.start op n j i).irqEn = e.irqEn := rfl
@[simp] theorem Engine.start_done : (e.start op n j i).done = false := rfl
@[simp] theorem Engine.start_drop : (e.start op n j i).drop = e.drop := rfl
@[simp] theorem Engine.start_err : (e.start op n j i).err = 0#4 := rfl
@[simp] theorem Engine.start_kekLen : (e.start op n j i).kekLen = e.kekLen := rfl
@[simp] theorem Engine.start_dataLen : (e.start op n j i).dataLen = e.dataLen := rfl
@[simp] theorem Engine.start_outLen : (e.start op n j i).outLen = 0#32 := rfl
@[simp] theorem Engine.start_seq :
    (e.start op n j i).seq = { phase := .run, op := op, n := BitVec.ofNat 3 n, j := j, i := i } := rfl
@[simp] theorem Engine.start_busy : (e.start op n j i).busy = true := rfl
end

/-! ### Zeroing, DROP, CTRL, STATUS -/

section
variable (e : Engine) (v : Word)

@[simp] theorem Engine.zeroState_a : e.zeroState.a = 0#64 := rfl
@[simp] theorem Engine.zeroState_r : e.zeroState.r = Vector.replicate 4 0#64 := rfl
@[simp] theorem Engine.zeroState_kek : e.zeroState.kek = e.kek := rfl
@[simp] theorem Engine.zeroState_irqEn : e.zeroState.irqEn = e.irqEn := rfl
@[simp] theorem Engine.zeroState_drop : e.zeroState.drop = e.drop := rfl
@[simp] theorem Engine.zeroState_kekLen : e.zeroState.kekLen = e.kekLen := rfl
@[simp] theorem Engine.zeroState_dataLen : e.zeroState.dataLen = e.dataLen := rfl
@[simp] theorem Engine.zeroState_seq : e.zeroState.seq = e.seq := rfl

@[simp] theorem Engine.dropWrite_drop : e.dropWrite.drop = true := rfl
@[simp] theorem Engine.dropWrite_work : (e.dropWrite.a, e.dropWrite.r, e.dropWrite.kek) = (e.a, e.r, e.kek) := rfl
@[simp] theorem Engine.dropWrite_busy : e.dropWrite.busy = e.busy := rfl
@[simp] theorem Engine.dropWrite_seq : e.dropWrite.seq = e.seq := rfl
@[simp] theorem Engine.dropWrite_done : e.dropWrite.done = e.done := rfl
@[simp] theorem Engine.dropWrite_err : e.dropWrite.err = e.err := rfl

@[simp] theorem Engine.ctrlWrite_irqEn : (e.ctrlWrite v).irqEn = v.getLsbD 0 := rfl
@[simp] theorem Engine.ctrlWrite_busy : (e.ctrlWrite v).busy = e.busy := rfl
@[simp] theorem Engine.ctrlWrite_done : (e.ctrlWrite v).done = e.done := rfl
@[simp] theorem Engine.statusWrite_done : (e.statusWrite v).done = (e.done && !v.getLsbD 1) := rfl
@[simp] theorem Engine.statusWrite_drop : (e.statusWrite v).drop = (e.drop && !v.getLsbD 2) := rfl
@[simp] theorem Engine.statusWrite_err : (e.statusWrite v).err = e.err := rfl
@[simp] theorem Engine.statusWrite_busy : (e.statusWrite v).busy = e.busy := rfl
end

/-! ### The byte-array writes (R64): only KEK, only A and R -/

section
variable (e : Engine) (v : Word) (k : Fin 8) (w : Fin 10)

@[simp] theorem Engine.setKekWord_a : (e.setKekWord k v).a = e.a := by simp only [Engine.setKekWord]
@[simp] theorem Engine.setKekWord_r : (e.setKekWord k v).r = e.r := by simp only [Engine.setKekWord]
@[simp] theorem Engine.setKekWord_irqEn : (e.setKekWord k v).irqEn = e.irqEn := by simp only [Engine.setKekWord]
@[simp] theorem Engine.setKekWord_done : (e.setKekWord k v).done = e.done := by simp only [Engine.setKekWord]
@[simp] theorem Engine.setKekWord_drop : (e.setKekWord k v).drop = e.drop := by simp only [Engine.setKekWord]
@[simp] theorem Engine.setKekWord_err : (e.setKekWord k v).err = e.err := by simp only [Engine.setKekWord]
@[simp] theorem Engine.setKekWord_kekLen : (e.setKekWord k v).kekLen = e.kekLen := by simp only [Engine.setKekWord]
@[simp] theorem Engine.setKekWord_dataLen : (e.setKekWord k v).dataLen = e.dataLen := by simp only [Engine.setKekWord]
@[simp] theorem Engine.setKekWord_outLen : (e.setKekWord k v).outLen = e.outLen := by simp only [Engine.setKekWord]
@[simp] theorem Engine.setKekWord_seq : (e.setKekWord k v).seq = e.seq := by simp only [Engine.setKekWord]
@[simp] theorem Engine.setKekWord_busy : (e.setKekWord k v).busy = e.busy := by
  unfold Engine.setKekWord Engine.busy
  rfl

theorem Engine.setStateReg_eq (q : Fin 5) (x : Chunk) :
    e.setStateReg q x = { e with a := (e.setStateReg q x).a, r := (e.setStateReg q x).r } := by
  unfold Engine.setStateReg
  split <;> rfl

@[simp] theorem Engine.stateReg_setStateReg_self (q : Fin 5) (x : Chunk) : (e.setStateReg q x).stateReg q = x := by
  unfold Engine.setStateReg Engine.stateReg
  split <;> simp

theorem Engine.stateReg_setStateReg_ne (q p : Fin 5) (x : Chunk) (h : p ≠ q) :
    (e.setStateReg q x).stateReg p = e.stateReg p := by
  have hv : p.val ≠ q.val := fun c => h (Fin.ext c)
  unfold Engine.setStateReg Engine.stateReg
  by_cases hp : p.val = 0 <;> by_cases hq : q.val = 0 <;> simp only [hp, hq, dite_true, dite_false]
  · omega
  · exact Vector.getElem_set_ne _ _ (by omega)

theorem Engine.setDataWord_eq :
    e.setDataWord w v = { e with a := (e.setDataWord w v).a, r := (e.setDataWord w v).r } :=
  Engine.setStateReg_eq ..

@[simp] theorem Engine.setDataWord_kek : (e.setDataWord w v).kek = e.kek := by rw [Engine.setDataWord_eq]
@[simp] theorem Engine.setDataWord_irqEn : (e.setDataWord w v).irqEn = e.irqEn := by rw [Engine.setDataWord_eq]
@[simp] theorem Engine.setDataWord_done : (e.setDataWord w v).done = e.done := by rw [Engine.setDataWord_eq]
@[simp] theorem Engine.setDataWord_drop : (e.setDataWord w v).drop = e.drop := by rw [Engine.setDataWord_eq]
@[simp] theorem Engine.setDataWord_err : (e.setDataWord w v).err = e.err := by rw [Engine.setDataWord_eq]
@[simp] theorem Engine.setDataWord_kekLen : (e.setDataWord w v).kekLen = e.kekLen := by rw [Engine.setDataWord_eq]
@[simp] theorem Engine.setDataWord_dataLen : (e.setDataWord w v).dataLen = e.dataLen := by rw [Engine.setDataWord_eq]
@[simp] theorem Engine.setDataWord_outLen : (e.setDataWord w v).outLen = e.outLen := by rw [Engine.setDataWord_eq]
@[simp] theorem Engine.setDataWord_seq : (e.setDataWord w v).seq = e.seq := by rw [Engine.setDataWord_eq]
@[simp] theorem Engine.setDataWord_busy : (e.setDataWord w v).busy = e.busy := by
  unfold Engine.busy
  rw [Engine.setDataWord_seq]
end

/-! ### The chaining steps (R183, R203): only A and R[I] -/

section
variable (e : Engine) (aes : AesPair) (key : AesKey)

@[simp] theorem Engine.wrapChain_kek : (e.wrapChain aes key).kek = e.kek := rfl
@[simp] theorem Engine.wrapChain_irqEn : (e.wrapChain aes key).irqEn = e.irqEn := rfl
@[simp] theorem Engine.wrapChain_done : (e.wrapChain aes key).done = e.done := rfl
@[simp] theorem Engine.wrapChain_drop : (e.wrapChain aes key).drop = e.drop := rfl
@[simp] theorem Engine.wrapChain_err : (e.wrapChain aes key).err = e.err := rfl
@[simp] theorem Engine.wrapChain_kekLen : (e.wrapChain aes key).kekLen = e.kekLen := rfl
@[simp] theorem Engine.wrapChain_dataLen : (e.wrapChain aes key).dataLen = e.dataLen := rfl
@[simp] theorem Engine.wrapChain_outLen : (e.wrapChain aes key).outLen = e.outLen := rfl
@[simp] theorem Engine.wrapChain_seq : (e.wrapChain aes key).seq = e.seq := rfl
@[simp] theorem Engine.wrapChain_busy : (e.wrapChain aes key).busy = e.busy := rfl
@[simp] theorem Engine.wrapChain_aesKey : (e.wrapChain aes key).aesKey = e.aesKey := rfl
@[simp] theorem Engine.unwrapChain_kek : (e.unwrapChain aes key).kek = e.kek := rfl
@[simp] theorem Engine.unwrapChain_irqEn : (e.unwrapChain aes key).irqEn = e.irqEn := rfl
@[simp] theorem Engine.unwrapChain_done : (e.unwrapChain aes key).done = e.done := rfl
@[simp] theorem Engine.unwrapChain_drop : (e.unwrapChain aes key).drop = e.drop := rfl
@[simp] theorem Engine.unwrapChain_err : (e.unwrapChain aes key).err = e.err := rfl
@[simp] theorem Engine.unwrapChain_kekLen : (e.unwrapChain aes key).kekLen = e.kekLen := rfl
@[simp] theorem Engine.unwrapChain_dataLen : (e.unwrapChain aes key).dataLen = e.dataLen := rfl
@[simp] theorem Engine.unwrapChain_outLen : (e.unwrapChain aes key).outLen = e.outLen := rfl
@[simp] theorem Engine.unwrapChain_seq : (e.unwrapChain aes key).seq = e.seq := rfl
@[simp] theorem Engine.unwrapChain_busy : (e.unwrapChain aes key).busy = e.busy := rfl
@[simp] theorem Engine.unwrapChain_aesKey : (e.unwrapChain aes key).aesKey = e.aesKey := rfl

theorem Engine.wrapChain_a : (e.wrapChain aes key).a =
    icvXor (msb (aes.enc key (block e.a e.r[e.seq.index]))) e.seq.counter := rfl

theorem Engine.wrapChain_r_index : (e.wrapChain aes key).r[e.seq.index] =
    lsb (aes.enc key (block e.a e.r[e.seq.index])) := by
  simp [Engine.wrapChain]

theorem Engine.wrapChain_r_ne (k : Fin 4) (h : k ≠ e.seq.index) : (e.wrapChain aes key).r[k] = e.r[k] := by
  have : e.seq.index.val ≠ k.val := fun c => h (Fin.ext c.symm)
  simp [Engine.wrapChain, this]

theorem Engine.unwrapChain_a : (e.unwrapChain aes key).a =
    msb (aes.dec key (block (icvXor e.a e.seq.counter) e.r[e.seq.index])) := rfl

theorem Engine.unwrapChain_r_index : (e.unwrapChain aes key).r[e.seq.index] =
    lsb (aes.dec key (block (icvXor e.a e.seq.counter) e.r[e.seq.index])) := by
  simp [Engine.unwrapChain]

theorem Engine.unwrapChain_r_ne (k : Fin 4) (h : k ≠ e.seq.index) : (e.unwrapChain aes key).r[k] = e.r[k] := by
  have : e.seq.index.val ≠ k.val := fun c => h (Fin.ext c.symm)
  simp [Engine.unwrapChain, this]
end

/-! ### The codes (R240) -/

@[simp] theorem ErrCode.bits_none : ErrCode.none.bits = 0#4 := rfl
@[simp] theorem ErrCode.bits_invalidKekLength : ErrCode.invalidKekLength.bits = 1#4 := rfl
@[simp] theorem ErrCode.bits_invalidDataLength : ErrCode.invalidDataLength.bits = 2#4 := rfl
@[simp] theorem ErrCode.bits_dataTooLarge : ErrCode.dataTooLarge.bits = 3#4 := rfl
@[simp] theorem ErrCode.bits_integrityCheckFailed : ErrCode.integrityCheckFailed.bits = 4#4 := rfl
@[simp] theorem ErrCode.bits_illegalCommand : ErrCode.illegalCommand.bits = 5#4 := rfl

end Sys2Proof.Machine
end

