-- ==== Sys2Proof/Laws/Ops.lean ====
section
/-! SUPPORT. What each shared operation can do, said once: BUSY, the dropped write, the write of a register, validation,
the issue of a command, the advance of the sequencer. -/

namespace Sys2Proof.Machine

theorem Engine.busy_iff (e : Engine) : e.busy = true ↔ e.seq.phase = .run := by simp [Engine.busy]

theorem Engine.not_busy_iff (e : Engine) : e.busy = false ↔ e.seq.phase = .idle := by
  unfold Engine.busy
  cases e.seq.phase <;> decide

/-- BUSY is a function of SEQ alone. -/
theorem Engine.busy_congr {e e' : Engine} (h : e.seq = e'.seq) : e.busy = e'.busy := by simp [Engine.busy, h]

theorem Engine.unlessBusy_of_busy {e : Engine} (h : e.busy = true) (f : Engine → Engine) :
    e.unlessBusy f = e.dropWrite := by simp [Engine.unlessBusy, h]

theorem Engine.unlessBusy_of_idle {e : Engine} (h : e.busy = false) (f : Engine → Engine) :
    e.unlessBusy f = f e := by simp [Engine.unlessBusy, h]

/-- The only two things a write that BUSY can hold off does. -/
theorem Engine.unlessBusy_cases (e : Engine) (f : Engine → Engine) :
    e.busy = true ∧ e.unlessBusy f = e.dropWrite ∨ e.busy = false ∧ e.unlessBusy f = f e := by
  cases h : e.busy
  · exact .inr ⟨rfl, Engine.unlessBusy_of_idle h f⟩
  · exact .inl ⟨rfl, Engine.unlessBusy_of_busy h f⟩

/-! ### Alignment and the register map -/

theorem aligned_iff (off : Offset) : aligned off = true ↔ off.toNat % 4 = 0 := by
  simp only [aligned, beq_iff_eq, ← BitVec.toNat_inj, BitVec.extractLsb'_toNat, BitVec.toNat_ofNat]
  omega

theorem memWrite_of_aligned {off : Offset} (h : off.toNat % 4 = 0) (e : Engine) (v : Word) :
    e.memWrite off v = e.writeReg v (windowReg off) := by simp [Engine.memWrite, (aligned_iff off).2 h]

theorem memWrite_of_misaligned {off : Offset} (h : off.toNat % 4 ≠ 0) (e : Engine) (v : Word) :
    e.memWrite off v = e := by
  have : aligned off = false := by rw [Bool.eq_false_iff]; exact fun c => h ((aligned_iff off).1 c)
  simp [Engine.memWrite, this]

theorem memRead_of_aligned {off : Offset} (h : off.toNat % 4 = 0) (e : Engine) :
    e.memRead off = .read .okay (e.readReg (windowReg off)) := by simp [Engine.memRead, (aligned_iff off).2 h]

theorem memRead_of_misaligned {off : Offset} (h : off.toNat % 4 ≠ 0) (e : Engine) :
    e.memRead off = .read .err 0#32 := by
  have : aligned off = false := by rw [Bool.eq_false_iff]; exact fun c => h ((aligned_iff off).1 c)
  simp [Engine.memRead, this]

theorem windowReg_eq_kek_iff (off : Offset) (k : Fin 8) :
    windowReg off = .kek k ↔ 0x020 ≤ off.toNat ∧ (off.toNat - 0x020) / 4 = k.val := by
  unfold windowReg cmdOffset
  simp only [← BitVec.toNat_inj, BitVec.toNat_ofNat]
  repeat' split
  all_goals simp_all [Fin.ext_iff]
  all_goals omega

theorem windowReg_eq_data_iff (off : Offset) (w : Fin 10) :
    windowReg off = .data w ↔ 0x040 ≤ off.toNat ∧ (off.toNat - 0x040) / 4 = w.val := by
  unfold windowReg cmdOffset
  simp only [← BitVec.toNat_inj, BitVec.toNat_ofNat]
  repeat' split
  all_goals simp_all [Fin.ext_iff]
  all_goals omega

/-- R70: the aligned offsets that R62 does not list. -/
theorem windowReg_eq_reserved {off : Offset} (hal : off.toNat % 4 = 0)
    (h : off.toNat = 0x01C ∨ 0x068 ≤ off.toNat) : windowReg off = .reserved := by
  unfold windowReg cmdOffset
  simp only [← BitVec.toNat_inj, BitVec.toNat_ofNat]
  repeat' split
  all_goals simp_all
  all_goals omega

/-! ### Validation -/

/-- Validation answers NONE with an N, or one of the three input codes (R168). -/
theorem validate_cases (op : Op) (k d : Word) :
    (∃ n, validate op k d = (.none, n)) ∨ validate op k d = (.invalidKekLength, 0) ∨
      validate op k d = (.invalidDataLength, 0) ∨ validate op k d = (.dataTooLarge, 0) := by
  cases op <;> simp only [validate] <;> repeat' split
  all_goals simp

/-- R166, R181, R201: an issue is an acceptance with validation's N, or an input code raised. -/
theorem Engine.issue_cases (e : Engine) (op : Op) (accept : Nat → Engine) :
    (∃ n, validate op e.kekLen e.dataLen = (.none, n) ∧ e.issue op accept = accept n) ∨
    (∃ c, (c = .invalidKekLength ∨ c = .invalidDataLength ∨ c = .dataTooLarge) ∧
      validate op e.kekLen e.dataLen = (c, 0) ∧ e.issue op accept = e.raiseErr c) := by
  rcases validate_cases op e.kekLen e.dataLen with ⟨n, h⟩ | h | h | h
  · exact .inl ⟨n, h, by simp [Engine.issue, h]⟩
  · exact .inr ⟨_, .inl rfl, h, by simp [Engine.issue, h]⟩
  · exact .inr ⟨_, .inr (.inl rfl), h, by simp [Engine.issue, h]⟩
  · exact .inr ⟨_, .inr (.inr rfl), h, by simp [Engine.issue, h]⟩

/-! ### The sequencer -/

/-- R184: the three cases of Advance for WRAP. -/
theorem Engine.advanceWrap_cases (e : Engine) :
    (e.seq.i.toNat + 1 < e.seq.n.toNat ∧
      e.advanceWrap = { e with seq := { e.seq with i := e.seq.i + 1#2 } }) ∨
    (e.seq.n.toNat ≤ e.seq.i.toNat + 1 ∧ e.seq.j.toNat < 5 ∧
      e.advanceWrap = { e with seq := { e.seq with i := 0#2, j := e.seq.j + 1#3 } }) ∨
    (e.seq.n.toNat ≤ e.seq.i.toNat + 1 ∧ 5 ≤ e.seq.j.toNat ∧ e.advanceWrap = e.wrapComplete) := by
  unfold Engine.advanceWrap
  split
  · exact .inl ⟨‹_›, rfl⟩
  · split
    · exact .inr (.inl ⟨by omega, ‹_›, rfl⟩)
    · exact .inr (.inr ⟨by omega, by omega, rfl⟩)

/-- R204: the three cases of Advance for UNWRAP. -/
theorem Engine.advanceUnwrap_cases (e : Engine) :
    (0 < e.seq.i.toNat ∧ e.advanceUnwrap = { e with seq := { e.seq with i := e.seq.i - 1#2 } }) ∨
    (e.seq.i.toNat = 0 ∧ 0 < e.seq.j.toNat ∧
      e.advanceUnwrap =
        { e with seq := { e.seq with i := BitVec.ofNat 2 (e.seq.n.toNat - 1), j := e.seq.j - 1#3 } }) ∨
    (e.seq.i.toNat = 0 ∧ e.seq.j.toNat = 0 ∧ e.advanceUnwrap = e.unwrapFinish) := by
  unfold Engine.advanceUnwrap
  split
  · exact .inl ⟨‹_›, rfl⟩
  · split
    · exact .inr (.inl ⟨by omega, ‹_›, rfl⟩)
    · exact .inr (.inr ⟨by omega, by omega, rfl⟩)

/-- R205, R206: the two ends of an UNWRAP. -/
theorem Engine.unwrapFinish_cases (e : Engine) :
    (e.a = icv ∧ e.unwrapFinish = e.complete .none (BitVec.ofNat 32 (8 * e.seq.n.toNat))) ∨
    (e.a ≠ icv ∧ e.unwrapFinish = e.zeroState.complete .integrityCheckFailed 0#32) := by
  unfold Engine.unwrapFinish icvCheck
  split <;> simp_all [Engine.unwrapFail, Engine.raiseErr]

end Sys2Proof.Machine
end

