-- ==== Sys2Proof/Laws/Step.lean ====
section
/-! SUPPORT. What a turn of each agent, a step and a run can do, said once. -/

namespace Sys2Proof.Machine

/-- Every meaning answers a next state, and none touches the queue. -/
theorem exec_next (i : Instr) (s : State) : ∃ t, exec i s = .next t ∧ t.pending = s.pending := by
  cases i <;> exact ⟨_, rfl, rfl⟩

/-- The engine a meaning leaves. -/
theorem exec_wr_engine (off : Offset) (v : Word) (s : State) :
    exec (.wr off v) s = .next (s.respond (s.engine.memWrite off v) (writeReply off)) := rfl

theorem exec_rd_engine (off : Offset) (s : State) :
    exec (.rd off) s = .next (s.respond s.engine (s.engine.memRead off)) := rfl

/-- An engine step needs a key, and is then one of the two chaining steps (R183, R203). -/
theorem Engine.step_cases {aes : AesPair} {e e' : Engine} (h : Engine.step aes e = .ok e') :
    ∃ key, e.aesKey = some key ∧
      (e.seq.op = .wrap ∧ e' = (e.wrapChain aes key).advanceWrap ∨
       e.seq.op = .unwrap ∧ e' = (e.unwrapChain aes key).advanceUnwrap) := by
  unfold Engine.step at h
  cases hk : e.aesKey with
  | none => simp [hk] at h
  | some key =>
    cases ho : e.seq.op with
    | wrap =>
      simp only [hk, ho, Except.ok.injEq] at h
      exact ⟨key, rfl, .inl ⟨rfl, h.symm⟩⟩
    | unwrap =>
      simp only [hk, ho, Except.ok.injEq] at h
      exact ⟨key, rfl, .inr ⟨rfl, h.symm⟩⟩

theorem Engine.step_of_wrap {aes : AesPair} {e : Engine} {key : AesKey} (hk : e.aesKey = some key)
    (ho : e.seq.op = .wrap) : Engine.step aes e = .ok ((e.wrapChain aes key).advanceWrap) := by
  simp [Engine.step, hk, ho, Engine.wrapStep]

theorem Engine.step_of_unwrap {aes : AesPair} {e : Engine} {key : AesKey} (hk : e.aesKey = some key)
    (ho : e.seq.op = .unwrap) : Engine.step aes e = .ok ((e.unwrapChain aes key).advanceUnwrap) := by
  simp [Engine.step, hk, ho, Engine.unwrapStep]

/-- There is a key exactly for the three lengths of R6. -/
theorem Engine.aesKey_isSome (e : Engine) :
    (∃ key, e.aesKey = some key) ↔ e.kekLen.toNat = 16 ∨ e.kekLen.toNat = 24 ∨ e.kekLen.toNat = 32 := by
  have h (n : Nat) (hn : n < 2 ^ 32) : e.kekLen = BitVec.ofNat 32 n ↔ e.kekLen.toNat = n := by
    rw [← BitVec.toNat_inj, BitVec.toNat_ofNat, Nat.mod_eq_of_lt hn]
  unfold Engine.aesKey
  simp only [h 16 (by decide), h 24 (by decide), h 32 (by decide)]
  split
  · simp_all
  · split
    · simp_all
    · split <;> simp_all

/-- The engine's turn: one enabled step, or nothing. -/
theorem engineTurn_cases {aes : AesPair} {s t : State} (h : engineTurn aes s = .next t) :
    (s.engine.busy = true ∧ ∃ e, Engine.step aes s.engine = .ok e ∧ t = { s with engine := e }) ∨
    (s.engine.busy = false ∧ t = s) := by
  unfold engineTurn at h
  split at h
  · rename_i hb
    split at h
    · rename_i e he
      cases h
      exact .inl ⟨hb, e, he, rfl⟩
    · cases h
  · cases h
    exact .inr ⟨by simp_all, rfl⟩

theorem engineTurn_of_step {aes : AesPair} {s : State} {e : Engine} (hb : s.engine.busy = true)
    (h : Engine.step aes s.engine = .ok e) : engineTurn aes s = .next { s with engine := e } := by
  simp [engineTurn, hb, h]

theorem engineTurn_of_idle {aes : AesPair} {s : State} (hb : s.engine.busy = false) : engineTurn aes s = .next s := by
  simp [engineTurn, hb]

/-- Everything a step that answers a next state can have done: the engine's turn, an instruction, or reset. -/
theorem stepWith_cases {aes : AesPair} {s t : State} (h : stepWith aes s = .next t) :
    (s.pending = [] ∧ engineTurn aes s = .next t) ∨
    (∃ rest, s.pending = .engine :: rest ∧ engineTurn aes { s with pending := rest } = .next t) ∨
    (∃ rest, s.pending = .reset :: rest ∧ t = { s with engine := Engine.reset, pending := rest }) ∨
    (∃ w rest i, s.pending = .host w :: rest ∧ fetch w = .ok i ∧ exec i { s with pending := rest } = .next t) := by
  unfold stepWith at h
  split at h
  · rename_i hp
    exact .inl ⟨hp, h⟩
  · rename_i ev rest hp
    cases ev with
    | engine => exact .inr (.inl ⟨rest, hp, h⟩)
    | reset =>
      simp only [runEvent, State.applyReset, Host.Outcome.next.injEq] at h
      exact .inr (.inr (.inl ⟨rest, hp, h.symm⟩))
    | host w =>
      simp only [runEvent] at h
      split at h
      · rename_i i hi
        exact .inr (.inr (.inr ⟨w, rest, i, hp, hi, h⟩))
      · cases h

/-- Only a command word that R102 calls ILLEGAL is an illegal command. -/
theorem decodeWord_illegalCommand {w : HostWord} {v : Word} (h : decodeWord w = .error (.illegalCommand v)) :
    w = .cmd v ∧ decodeCmd v = .illegal := by
  cases w with
  | htw w =>
    simp only [decodeWord, decodeHtw] at h
    split at h
    · cases h
    · split at h
      · cases h
      · split at h <;> cases h
  | cmd w =>
    simp only [decodeWord, decodeCommandWord] at h
    split at h <;> simp at h
    subst h
    exact ⟨rfl, ‹_›⟩

/-- A fetched instruction is the decoder's, or the CMD write of an ILLEGAL word. -/
theorem fetch_cases {w : HostWord} {i : Instr} (h : fetch w = .ok i) :
    decodeWord w = .ok i ∨ ∃ v, w = .cmd v ∧ decodeCmd v = .illegal ∧ i = .wr cmdOffset v := by
  unfold fetch at h
  split at h
  · simp_all
  · rename_i v hv
    obtain ⟨hw, hd⟩ := decodeWord_illegalCommand hv
    exact .inr ⟨v, hw, hd, by simp_all⟩
  · cases h
  · cases h

/-! ### Runs -/

@[simp] theorem runWith_zero (aes : AesPair) (s : State) : runWith aes 0 s = .next s := rfl

theorem runWith_succ (aes : AesPair) (k : Nat) (s t : State) (h : stepWith aes s = .next t) :
    runWith aes (k + 1) s = runWith aes k t := by simp [runWith, h]

theorem runWith_add {aes : AesPair} {m k : Nat} {s t : State} (h : runWith aes k s = .next t) :
    runWith aes (k + m) s = runWith aes m t := by
  induction k generalizing s with
  | zero => simp_all
  | succ k ih =>
    rw [Nat.add_right_comm]
    simp only [runWith] at h ⊢
    split at h
    · exact ih h
    · cases h
    · cases h

/-- The machine's own run is the run with the machine's AES pair. -/
theorem core_run (k : Nat) (s : State) : Host.Core.run Sys2Proof.core k s = runWith Config.aesPair k s := by
  induction k generalizing s with
  | zero => rfl
  | succ k ih =>
    have hs : Sys2Proof.core.step s = stepWith Config.aesPair s := rfl
    simp only [Host.Core.run, runWith, hs]
    cases stepWith Config.aesPair s with
    | next t => exact ih t
    | fault f => rfl
    | refused r => rfl

end Sys2Proof.Machine
end

