-- ==== Sys2Proof/Laws/HostProgram.lean ====
section
/-! SUPPORT. What a turn of a host program can do, said once, and the exit test of `wait_idle`. -/

namespace Sys2Proof.Machine

@[simp] theorem mapNext_next {α β : Type} (f : α → β) (s : α) : mapNext f (.next s) = .next (f s) := rfl

theorem mapNext_eq_next {α β : Type} {f : α → β} {x : Host.Outcome α Fault Refusal} {t : β}
    (h : mapNext f x = .next t) : ∃ s, x = .next s ∧ t = f s := by
  cases x with
  | next s => exact ⟨s, rfl, by simpa using h.symm⟩
  | fault r => cases h
  | refused r => cases h

/-- Bit 0 of STATUS is BUSY (R33). -/
theorem statusWord_bit0 (e : Engine) : e.statusWord.getLsbD 0 = e.busy := by
  unfold Engine.statusWord flagWord
  cases e.busy <;> simp

/-- The line of the loop is a read of STATUS, and it finishes the loop exactly when BUSY = 0. -/
theorem fetch_untilIdle : fetch (encode Line.untilIdle.transaction) = .ok (.rd 0x00C#12) := by decide

theorem ended_untilIdle (e : Engine) : Line.untilIdle.ended (some (e.memRead 0x00C#12)) = !e.busy := by
  rw [← statusWord_bit0]
  rfl

/-- Everything a turn that answers a next state can have done. -/
theorem HostRun.turn_cases {aes : AesPair} {h g : HostRun} {agent : Agent} (ht : h.turn aes agent = .next g) :
    (agent = .host ∧ h.lines = [] ∧ g = h) ∨
    (agent = .host ∧ ∃ line rest s, h.lines = line :: rest ∧
      runEvent aes h.state (.host (encode line.transaction)) = .next s ∧
      g = { state := s, lines := if line.ended s.reply then rest else line :: rest }) ∨
    (agent = .engine ∧ ∃ s, engineTurn aes h.state = .next s ∧ g = { h with state := s }) ∨
    (agent = .reset ∧ g = { h with state := h.state.applyReset }) := by
  cases agent with
  | host =>
    simp only [HostRun.turn] at ht
    split at ht
    · exact .inl ⟨rfl, ‹_›, by simpa using ht.symm⟩
    · obtain ⟨s, hs, hg⟩ := mapNext_eq_next ht
      exact .inr (.inl ⟨rfl, _, _, s, ‹_›, hs, hg⟩)
  | engine =>
    obtain ⟨s, hs, hg⟩ := mapNext_eq_next ht
    exact .inr (.inr (.inl ⟨rfl, s, hs, hg⟩))
  | reset => exact .inr (.inr (.inr ⟨rfl, by simpa [HostRun.turn] using ht.symm⟩))

theorem HostRun.run_append {aes : AesPair} {q : List Agent} {h g : HostRun} (hq : h.run aes q = .next g)
    (q' : List Agent) : h.run aes (q ++ q') = g.run aes q' := by
  induction q generalizing h with
  | nil => cases hq; rfl
  | cons agent q ih =>
    simp only [HostRun.run, List.cons_append] at hq ⊢
    split at hq
    · exact ih hq
    · cases hq
    · cases hq

end Sys2Proof.Machine
end

