-- ==== Sys2Proof/Laws/PerInstr.lean ====
section
/-! SUPPORT. Statements made of every instruction, constructor by constructor. -/

namespace Sys2Proof.Laws.EncodesWellFormed

/-- Every instruction's word is well formed (R104, R105), and its encoding is decided by its constructor (R108): the CMD
rows are command words that R102 accepts. -/
def Statement (i : Instr) : Prop :=
  (encode i).wellFormed = true ∧
  ((∃ v, encode i = .cmd v) ↔ i = .nop ∨ i = .wrap ∨ i = .unwrap ∨ i = .clear) ∧
  (∀ v, encode i = .cmd v → (encode i).legalCommand = true)

theorem htwOf_reserved (w : Bool) (off : Offset) (data : Word) : (htwOf w off data).extractLsb' 44 19 = 0#19 := by
  ext k hk
  simp only [htwOf, BitVec.getElem_extractLsb', BitVec.getLsbD_append, BitVec.getLsbD_zero, BitVec.getElem_zero]
  rw [if_neg (by omega), if_neg (by omega), if_pos (by omega)]

theorem rd (off : Offset) : Statement (.rd off) := by
  refine ⟨?_, by simp [encode], by simp [encode]⟩
  simp only [encode, HostWord.wellFormed, HostWord.reservedZero, HostWord.readDataZero, htwOf_reserved]
  have : (htwOf false off 0#32).extractLsb' 0 32 = 0#32 := by
    ext k hk
    simp only [htwOf, BitVec.getElem_extractLsb', BitVec.getLsbD_append, BitVec.getLsbD_zero, BitVec.getElem_zero]
    rw [if_pos (by omega)]
  simp [this]

theorem wr (off : Offset) (data : Word) : Statement (.wr off data) := by
  refine ⟨?_, by simp [encode], by simp [encode]⟩
  simp only [encode, HostWord.wellFormed, HostWord.reservedZero, HostWord.readDataZero, htwOf_reserved]
  have : (htwOf true off data).getLsbD 63 = true := by
    have ho := off.isLt
    have hd := data.isLt
    rw [htw_w_iff, htwOf_toNat, Bool.toNat_true]
    omega
  simp [this]

theorem nop : Statement .nop := ⟨by decide, by simp [encode], by rintro v ⟨⟩; decide⟩

theorem wrap : Statement .wrap := ⟨by decide, by simp [encode], by rintro v ⟨⟩; decide⟩

theorem unwrap : Statement .unwrap := ⟨by decide, by simp [encode], by rintro v ⟨⟩; decide⟩

theorem clear : Statement .clear := ⟨by decide, by simp [encode], by rintro v ⟨⟩; decide⟩

end Sys2Proof.Laws.EncodesWellFormed
end

