-- ==== Sys2Proof/Tests/Fips197.lean ====
section
/-! SUPPORT. A concrete AES pair for the tests: FIPS-197, which the spec names from general knowledge and not from its
source (00_scope.md R6; 93_implementation_defined.md G1, G2, G3). The model does not use it: the machine's pair stays open
(log entries 1 and 19). Bytes are Nats below 256 and a state is its 16 bytes in sequence order. -/

namespace Sys2Proof.Tests.Fips197

/-- The S-box, one number a row: entry 16·r + c is byte c of row r, the least significant first. -/
def sboxRows : List Nat :=
  [0x76abd7fe2b670130c56f6bf27b777c63, 0xc072a49cafa2d4adf04759fa7dc982ca,
   0x1531d871f1e5a534ccf73f362693fdb7, 0x75b227ebe28012079a059618c323c704,
   0x842fe329b3d63b52a05a6e1b1a2c8309, 0xcf584c4a39becb6a5bb1fc20ed00d153,
   0xa89f3c507f02f94585334d43fbaaefd0, 0xd2f3ff1021dab6bcf5389d928f40a351,
   0x73195d643d7ea7c41744975fec130ccd, 0xdb0b5ede14b8ee4688902a22dc4f8160,
   0x79e4959162acd3c25c2406490a3a32e0, 0x08ae7a65eaf4566ca94ed58d6d37c8e7,
   0x8a8bbd4b1f74dde8c6b4a61c2e2578ba, 0x9e1dc186b95735610ef6034866b53e70,
   0xdf2855cee9871e9b948ed9691198f8e1, 0x16bb54b00f2d99416842e6bf0d89a18c]

/-- The inverse S-box, in the same form. -/
def invSboxRows : List Nat :=
  [0xfbd7f3819ea340bf38a53630d56a0952, 0xcbe9dec444438e3487ff2f9b8239e37c,
   0x4ec3fa420b954cee3d23c2a632947b54, 0x25d18b6d49a25b76b224d92866a12e08,
   0x92b6655dcc5ca4d41698688664f6f872, 0x849d8da75746155edab9edfd5048706c,
   0x0645b3b80558e4f70ad3bc8c00abd890, 0x6b8a130103bdafc1020f3fca8f1e2cd0,
   0x73e6b4f0cecff297eadc674f4111913a, 0x6edf751ce837f9e28535ade72274ac96,
   0x1bbe18aa0e62b76f89c5291d711af147, 0xf45acd78fec0db9a2079d2c64b3e56fc,
   0x5fec8027591012b131c7078833a8dd1f, 0xef9cc9939f7ae52d0d4ab519a97f5160,
   0x619953833cbbebc8b0f52aae4d3be0a0, 0x7d0c2155631469e126d677ba7e042b17]

def lookup (rows : List Nat) (x : Nat) : Nat := ((rows.getD (x / 16) 0) >>> (8 * (x % 16))) % 256

def sub (x : Nat) : Nat := lookup sboxRows x

/-- Doubling in GF(2^8). -/
def xtime (x : Nat) : Nat := if x < 128 then 2 * x else (2 * x) ^^^ 0x11b

def shiftRows (s : List Nat) : List Nat :=
  [0, 5, 10, 15, 4, 9, 14, 3, 8, 13, 2, 7, 12, 1, 6, 11].map fun i => s.getD i 0

def invShiftRows (s : List Nat) : List Nat :=
  [0, 13, 10, 7, 4, 1, 14, 11, 8, 5, 2, 15, 12, 9, 6, 3].map fun i => s.getD i 0

def mixColumns : List Nat → List Nat
  | a :: b :: c :: d :: rest =>
    let t := a ^^^ b ^^^ c ^^^ d
    (a ^^^ t ^^^ xtime (a ^^^ b)) :: (b ^^^ t ^^^ xtime (b ^^^ c)) :: (c ^^^ t ^^^ xtime (c ^^^ d)) ::
      (d ^^^ t ^^^ xtime (d ^^^ a)) :: mixColumns rest
  | _ => []

/-- InvMixColumns is the cube of MixColumns. -/
def invMixColumns (s : List Nat) : List Nat := mixColumns (mixColumns (mixColumns s))

def xorBytes (s t : List Nat) : List Nat := s.zipWith (· ^^^ ·) t

/-- The key schedule's words after the first nk, newest first, as FIPS-197's KeyExpansion makes them. -/
def expand (nk : Nat) : (fuel i rcon : Nat) → List (List Nat) → List (List Nat)
  | 0, _, _, acc => acc
  | fuel + 1, i, rcon, acc =>
    let prev := acc.headD []
    let old := acc.getD (nk - 1) []
    if i % nk = 0 then
      let g := [sub (prev.getD 1 0) ^^^ rcon, sub (prev.getD 2 0), sub (prev.getD 3 0), sub (prev.getD 0 0)]
      expand nk fuel (i + 1) (xtime rcon) (xorBytes old g :: acc)
    else if nk > 6 ∧ i % nk = 4 then expand nk fuel (i + 1) rcon (xorBytes old (prev.map sub) :: acc)
    else expand nk fuel (i + 1) rcon (xorBytes old prev :: acc)

def chop (fuel width : Nat) (l : List Nat) : List (List Nat) :=
  (List.range fuel).map fun k => (l.drop (width * k)).take width

/-- The round keys, 16 bytes each, from a key's bytes. -/
def roundKeys (key : List Nat) : List (List Nat) :=
  let nk := key.length / 4
  chop (nk + 7) 16 (expand nk (4 * (nk + 7) - nk) nk 1 (chop nk 4 key).reverse).reverse.flatten

def encRounds : List (List Nat) → List Nat → List Nat
  | [], s => s
  | [k], s => xorBytes (shiftRows (s.map sub)) k
  | k :: ks, s => encRounds ks (xorBytes (mixColumns (shiftRows (s.map sub))) k)

def decRounds : List (List Nat) → List Nat → List Nat
  | [], s => s
  | [k], s => xorBytes ((invShiftRows s).map (lookup invSboxRows)) k
  | k :: ks, s => decRounds ks (invMixColumns (xorBytes ((invShiftRows s).map (lookup invSboxRows)) k))

def keyBytes : AesKey → List Nat
  | .k128 b => b.toList.map BitVec.toNat
  | .k192 b => b.toList.map BitVec.toNat
  | .k256 b => b.toList.map BitVec.toNat

def blockBytes (b : Block) : List Nat := (List.range 16).map fun k => b.toNat / 2 ^ (8 * (15 - k)) % 256

def blockOf (s : List Nat) : Block := BitVec.ofNat 128 (s.foldl (fun n x => 256 * n + x) 0)

/-- FIPS-197 AES, with key and block bytes in sequence order (G1, G2). -/
def aes : AesPair where
  enc key b :=
    let ks := roundKeys (keyBytes key)
    blockOf (encRounds ks.tail (xorBytes (blockBytes b) (ks.headD [])))
  dec key b :=
    let ks := (roundKeys (keyBytes key)).reverse
    blockOf (decRounds ks.tail (xorBytes (blockBytes b) (ks.headD [])))

/-- The key 00 01 02 .. of 16 bytes. -/
def key128 : AesKey := .k128 (Vector.ofFn fun b => BitVec.ofNat 8 b.val)

def key192 : AesKey := .k192 (Vector.ofFn fun b => BitVec.ofNat 8 b.val)

def key256 : AesKey := .k256 (Vector.ofFn fun b => BitVec.ofNat 8 b.val)

end Sys2Proof.Tests.Fips197
end

