-- ==== Sys2Proof/Tests/Slice0.lean ====
section
/-! SUPPORT. The tests: well-formedness smoke, words written out from the spec's encodings, one-step tests, the source's
known-answer vectors, and one witness theorem for the hypotheses of each statement that has some.
Expected values are the spec's: the rule or the vector of 95_test_vectors.md each comes from is named. -/

namespace Sys2Proof.Tests

open Sys2Proof.Machine

/-! ### Well-formedness: each check refuses an ill-formed word -/

/-- R104: bit 44 and bit 62 are reserved; bit 43 is OFF's top bit and is not. -/
theorem test_reservedZero :
    (HostWord.htw 0x0000100000000000#64).reservedZero = false ∧
    (HostWord.htw 0xC000000000000000#64).reservedZero = false ∧
    (HostWord.htw 0x00000FFF00000000#64).reservedZero = true := by decide

/-- R104: a read with data is refused, a write with the same data is not. -/
theorem test_readDataZero :
    (HostWord.htw 0x0000000C00000001#64).readDataZero = false ∧
    (HostWord.htw 0x0000000C80000000#64).readDataZero = false ∧
    (HostWord.htw 0x8000000C00000001#64).readDataZero = true := by decide

/-- R105: either check makes the word ill formed. -/
theorem test_wellFormed :
    (HostWord.htw 0x8000100000000000#64).wellFormed = false ∧
    (HostWord.htw 0x0000000C00000001#64).wellFormed = false ∧
    (HostWord.htw 0x8000000800000001#64).wellFormed = true := by decide

/-- R107 (a): reserved bits, and a reserved OP. -/
theorem test_legalCommand :
    (HostWord.cmd 0x00000011#32).legalCommand = false ∧ (HostWord.cmd 0x00000004#32).legalCommand = false ∧
    (HostWord.cmd 0x80000001#32).legalCommand = false ∧ (HostWord.cmd 0x00000003#32).legalCommand = true ∧
    (HostWord.htw 0x8000000800000003#64).legalCommand = false := by decide

/-! ### Decoding: words written bit by bit from R104 and R100 -/

/-- R104, R109: W = 0, RSVD = 0, OFF = 0x00C, DATA = 0 is `rd STATUS`. -/
theorem test_decode_rd :
    decodeTableWord 64 0b0000000000000000000000000000110000000000000000000000000000000000 = some (.rd 0x00C#12) ∧
    decodeTableWord 64 0x00000FFF00000000 = some (.rd 0xFFF#12) := by decide

/-- R104, R109: W = 1, RSVD = 0, OFF = 0x008, DATA = 1 is `wr CMD, 0x1`. -/
theorem test_decode_wr :
    decodeTableWord 64 0b1000000000000000000000000000100000000000000000000000000000000001 =
      some (.wr 0x008#12 0x1#32) ∧
    decodeTableWord 64 0x80000FFFFFFFFFFF = some (.wr 0xFFF#12 0xFFFFFFFF#32) := by decide

/-- R101: the four command words, 28 reserved zero bits and the OP. -/
theorem test_decode_commands :
    decodeTableWord 32 0b00000000000000000000000000000000 = some .nop ∧
    decodeTableWord 32 0b00000000000000000000000000000001 = some .wrap ∧
    decodeTableWord 32 0b00000000000000000000000000000010 = some .unwrap ∧
    decodeTableWord 32 0b00000000000000000000000000000011 = some .clear := by decide

/-- R102, R105: reserved encodings are refused by name and fall through to nothing. -/
theorem test_decode_refuses :
    decodeCommandWord 0x00000004#32 = .error (.illegalCommand 0x4#32) ∧
    decodeCommandWord 0x00000010#32 = .error (.illegalCommand 0x10#32) ∧
    decodeHtw 0x0000100C00000000#64 = .error .reservedHtwBits ∧
    decodeHtw 0x0000000C00000001#64 = .error .readWithData := by decide

/-! ### Helpers: the vectors V-H of 95_test_vectors.md -/

/-- V-H1 to V-H5, V-H10, V-H11. -/
theorem test_helpers :
    msb 0xF4740052E82A225174CE86FBD7B805E7#128 = 0xF4740052E82A2251#64 ∧
    lsb 0xF4740052E82A225174CE86FBD7B805E7#128 = 0x74CE86FBD7B805E7#64 ∧
    block 0xA6A6A6A6A6A6A6A6#64 0x0011223344556677#64 = 0xA6A6A6A6A6A6A6A60011223344556677#128 ∧
    icvXor 0xF4740052E82A2251#64 1#8 = 0xF4740052E82A2250#64 ∧
    icvXor 0x1FA68B0A8112B447#64 12#8 = 0x1FA68B0A8112B44B#64 ∧
    icvCheck 0xA6A6A6A6A6A6A6A7#64 = false ∧ icvCheck 0x26A6A6A6A6A6A6A6#64 = false := by decide

/-- V-H13 to V-H18. -/
theorem test_stepCounter :
    stepCounter 1 0 0 = 1#8 ∧ stepCounter 1 5 0 = 6#8 ∧ stepCounter 2 5 1 = 12#8 ∧ stepCounter 3 2 1 = 8#8 ∧
    stepCounter 4 5 3 = 24#8 ∧ stepCounter 50 5 9 = 4#8 := by decide

/-! ### One-step tests -/

/-- Reset with the two lengths written. -/
def withLengths (kekLen dataLen : Word) : State :=
  { State.reset with engine := { Engine.reset with kekLen := kekLen, dataLen := dataLen } }

/-- The state an instruction leaves. -/
def after (i : Instr) (s : State) : State :=
  match exec i s with
  | .next t => t
  | _ => s

/-- The same with actions outstanding. -/
def queued (s : State) (q : List Event) : State := { s with pending := q }

/-- STATUS as a host reads it. -/
def status (s : State) : Option Reply := (after (.rd 0x00C#12) s).reply

/-- R66: ID, and CMD reads 0. -/
theorem test_rd :
    (after (.rd 0x000#12) State.reset).reply = some (.read .okay 0x33940007#32) ∧
    (after (.rd 0x002#12) State.reset).reply = some (.read .err 0#32) := by decide

/-- R64: KEK0 = 0x00010203 sets KEK[0..4) to 00 01 02 03; DATA1 is A[31:0]. -/
theorem test_wr :
    ((after (.wr 0x020#12 0x00010203#32) State.reset).engine.kek.toList.take 5 = [0#8, 1#8, 2#8, 3#8, 0#8]) ∧
    (after (.wr 0x044#12 0x8112B447#32) State.reset).engine.a = 0x000000008112B447#64 := by decide

/-- R144: NOP changes nothing of the engine (STATUS stays 0x42 after a failed UNWRAP, from the rule's example). -/
theorem test_nop :
    let s := { State.reset with engine := { Engine.reset with err := 4#4, done := true } }
    status (after .nop s) = some (.read .okay 0x00000042#32) := by decide

/-- V-V2, V-V17, V-V25: INVALID_KEK_LENGTH with STATUS 0x12; DATA_TOO_LARGE with STATUS 0x32; acceptance with STATUS 0x1 and A = ICV. -/
theorem test_wrap :
    status (after .wrap (withLengths 15#32 8#32)) = some (.read .okay 0x00000012#32) ∧
    status (after .wrap (withLengths 16#32 24#32)) = some (.read .okay 0x00000032#32) ∧
    status (after .wrap (withLengths 16#32 8#32)) = some (.read .okay 0x00000001#32) ∧
    (after .wrap (withLengths 16#32 8#32)).engine.a = 0xA6A6A6A6A6A6A6A6#64 := by decide

/-- V-V12, V-V32: INVALID_DATA_LENGTH with STATUS 0x22; acceptance at (5, N − 1) with A kept. -/
theorem test_unwrap :
    status (after .unwrap (withLengths 16#32 8#32)) = some (.read .okay 0x00000022#32) ∧
    (after .unwrap (withLengths 32#32 40#32)).engine.seq = { phase := .run, op := .unwrap, n := 4#3, j := 5#3, i := 3#2 } ∧
    (after .unwrap (withLengths 32#32 40#32)).engine.a = 0#64 := by decide

/-- R143: CLEAR zeroes a KEK byte and the lengths; R142's example: CMD 0x11 gives STATUS 0x52. -/
theorem test_clear :
    (after .clear (after (.wr 0x03C#12 0xFFFFFFFF#32) (withLengths 15#32 9#32))).engine =
      { Engine.reset with done := true } ∧
    status (after (.wr 0x008#12 0x11#32) State.reset) = some (.read .okay 0x00000052#32) := by decide

/-- R141's example: a CMD write just after `wrap` leaves STATUS 0x5. -/
theorem test_drop :
    status (after (.wr 0x008#12 0x2#32) (after .wrap (withLengths 16#32 16#32))) =
      some (.read .okay 0x00000005#32) := by decide

/-! ### Host programs -/

/-- The lines left after a program's host and engine turns. -/
def linesLeft (h : HostRun) (q : List Agent) : Option (List Line) :=
  match h.run { enc := fun _ x => x, dec := fun _ x => x } q with
  | .next g => some g.lines
  | _ => none

/-- R110, 93_implementation_defined.md: `wait_idle` never ends while the engine is starved, and one read ends it at an
idle engine. -/
theorem test_waitIdle :
    linesLeft ⟨after .wrap (withLengths 16#32 16#32), [.untilIdle]⟩ (List.replicate 20 .host) = some [.untilIdle] ∧
    linesLeft ⟨State.reset, [.untilIdle]⟩ [.host] = some [] := by decide

/-! ### FIPS-197 AES and the known-answer vectors -/

/-- The AES pair check of 95_test_vectors.md section 2 (FIPS-197 Appendix C). -/
theorem test_fips197 :
    Fips197.aes.enc Fips197.key128 0x00112233445566778899AABBCCDDEEFF#128 = 0x69C4E0D86A7B0430D8CDB78070B4C55A#128 ∧
    Fips197.aes.enc Fips197.key192 0x00112233445566778899AABBCCDDEEFF#128 = 0xDDA97CA4864CDFE06EAF70A0EC0D7191#128 ∧
    Fips197.aes.enc Fips197.key256 0x00112233445566778899AABBCCDDEEFF#128 = 0x8EA2B7CA516745BFEAFC49904B496089#128 ∧
    Fips197.aes.dec Fips197.key128 0x69C4E0D86A7B0430D8CDB78070B4C55A#128 =
      0x00112233445566778899AABBCCDDEEFF#128 := by decide +kernel

/-- R183's example: the first step of V-W1. -/
theorem test_wrapStep :
    let e := Engine.wrapChain Fips197.aes Fips197.key128
      { Engine.reset with
        a := icv, r := #v[0x0011223344556677#64, 0x8899AABBCCDDEEFF#64, 0#64, 0#64]
        seq := { phase := .run, op := .wrap, n := 2#3, j := 0#3, i := 0#2 } }
    e.a = 0xF4740052E82A2250#64 ∧ e.r = #v[0x74CE86FBD7B805E7#64, 0x8899AABBCCDDEEFF#64, 0#64, 0#64] := by
  decide +kernel

/-- R203's example: the first step of V-U1. -/
theorem test_unwrapStep :
    let e := Engine.unwrapChain Fips197.aes Fips197.key128
      { Engine.reset with
        a := 0x1FA68B0A8112B447#64, r := #v[0xAEF34BD8FB5A7B82#64, 0x9D3E862371D2CFE5#64, 0#64, 0#64]
        seq := { phase := .run, op := .unwrap, n := 2#3, j := 5#3, i := 1#2 } }
    e.a = 0x93B71967EED41FF7#64 ∧ e.r = #v[0xAEF34BD8FB5A7B82#64, 0x4FD3D2B7D74FBB42#64, 0#64, 0#64] := by
  decide +kernel

/-- R187, V-S1: the source's 128-bit vector, by WrapFn. -/
theorem test_vector_s1 :
    wrapFn Fips197.aes Fips197.key128 [0x0011223344556677#64, 0x8899AABBCCDDEEFF#64] =
      [0x1FA68B0A8112B447#64, 0xAEF34BD8FB5A7B82#64, 0x9D3E862371D2CFE5#64] := by decide +kernel

/-- R187, V-S2: the source's 192-bit vector, by UnwrapRegs. -/
theorem test_vector_s2 :
    unwrapRegs Fips197.aes Fips197.key192 0x96778B25AE6CA435#64 [0xF92B5B97C050AED2#64, 0x468AB8A17AD84E5D#64] =
      (icv, [0x0011223344556677#64, 0x8899AABBCCDDEEFF#64]) := by decide +kernel

/-- R187, V-S3: the source's 256-bit vector, by WrapFn. -/
theorem test_vector_s3 :
    wrapFn Fips197.aes Fips197.key256 [0x0011223344556677#64, 0x8899AABBCCDDEEFF#64] =
      [0x64E8C3F9CE0F5BA2#64, 0x63E9777905818A2A#64, 0x93C8191E7D6E8AE7#64] := by decide +kernel

/-! ### Witnesses: states and operands that meet the hypotheses of each statement, clause by clause -/

/-- A WRAP just accepted: N = 2, position (0, 0). -/
def busyWrap : State := after .wrap (withLengths 16#32 16#32)

/-- An UNWRAP just accepted: N = 2, position (5, 1). -/
def busyUnwrap : State := after .unwrap (withLengths 16#32 24#32)

/-- The same WRAP at its last position, (5, 1). -/
def lastWrap : State :=
  { busyWrap with engine := { busyWrap.engine with seq := { phase := .run, op := .wrap, n := 2#3, j := 5#3, i := 1#2 } } }

/-- The WRAP at the end of its first round, (0, 1). -/
def roundWrap : State :=
  { busyWrap with engine := { busyWrap.engine with seq := { phase := .run, op := .wrap, n := 2#3, j := 0#3, i := 1#2 } } }

/-- The UNWRAP at the end of its first round, (5, 0). -/
def roundUnwrap : State :=
  { busyUnwrap with
    engine := { busyUnwrap.engine with seq := { phase := .run, op := .unwrap, n := 2#3, j := 5#3, i := 0#2 } } }

/-- The UNWRAP at its last position, (0, 0). -/
def lastUnwrap : State :=
  { busyUnwrap with
    engine := { busyUnwrap.engine with seq := { phase := .run, op := .unwrap, n := 2#3, j := 0#3, i := 0#2 } } }

/-- A pair of AES functions that meets both laws of R6. -/
def idPair : AesPair := { enc := fun _ x => x, dec := fun _ x => x }

/-- A pair whose decryption answers one block. -/
def constPair (b : Block) : AesPair := { enc := fun _ x => x, dec := fun _ _ => b }

theorem inv_reset : State.reset.Inv := by constructor <;> decide
theorem inv_busyWrap : busyWrap.Inv := by constructor <;> decide
theorem inv_lastWrap : lastWrap.Inv := by constructor <;> decide
theorem inv_lastUnwrap : lastUnwrap.Inv := by constructor <;> decide

theorem witness_EncodeOfDecodeIsTheWord :
    decodeWord (.htw 0x800000401FA68B0A#64) = .ok (.wr 0x040#12 0x1FA68B0A#32) ∧
    decodeWord (.htw 0x0000000C00000000#64) = .ok (.rd 0x00C#12) ∧
    decodeWord (.cmd 0x3#32) = .ok .clear := by decide

theorem witness_HtwIsDecodedOrRefusedByName :
    ((0x0000100000000000#64).toNat / 2 ^ 44 % 2 ^ 19 ≠ 0 ∧ (0x4000000000000000#64).toNat / 2 ^ 44 % 2 ^ 19 ≠ 0) ∧
    ((0x1#64).toNat / 2 ^ 44 % 2 ^ 19 = 0 ∧ (0x1#64).toNat / 2 ^ 63 = 0 ∧ (0x1#64).toNat % 2 ^ 32 ≠ 0) ∧
    ((0x80000FFFFFFFFFFF#64).toNat / 2 ^ 44 % 2 ^ 19 = 0 ∧ (0x80000FFFFFFFFFFF#64).toNat / 2 ^ 63 = 1 ∧
      (0xFFF#12).toNat % 4 ≠ 0) ∧
    ((0x00000FFF00000000#64).toNat / 2 ^ 44 % 2 ^ 19 = 0 ∧ (0x00000FFF00000000#64).toNat / 2 ^ 63 = 0 ∧
      (0x00000FFF00000000#64).toNat % 2 ^ 32 = 0) := by decide

theorem witness_StepRunsTheDecodedInstruction :
    (queued State.reset [.host (.htw 0x8000000800000001#64)]).pending = .host (.htw 0x8000000800000001#64) :: [] ∧
    decodeWord (.htw 0x8000000800000001#64) = .ok (.wr 0x008#12 0x1#32) ∧
    (queued State.reset [.host (.cmd 0x11#32)]).pending = .host (.cmd 0x11#32) :: [] ∧
    decodeWord (.cmd 0x11#32) = .error (.illegalCommand 0x11#32) := by decide

theorem witness_EachStepIsOneAgentsAction :
    (queued busyWrap [.reset]).pending = .reset :: [] ∧
    ((queued State.reset [.host (.cmd 0x11#32)]).pending = .host (.cmd 0x11#32) :: [] ∧
      fetch (.cmd 0x11#32) = .ok (.wr 0x008#12 0x11#32)) ∧
    ((queued State.reset [.host (.htw 0x1#64)]).pending = .host (.htw 0x1#64) :: [] ∧
      fetch (.htw 0x1#64) = .error .readWithData) ∧
    ((queued State.reset [.engine]).pending = .engine :: [] ∧ State.reset.engine.busy = false) ∧
    State.reset.pending = [] ∧
    ((queued busyWrap [.engine]).pending = .engine :: [] ∧ busyWrap.engine.busy = true ∧
      ∃ t, step { queued busyWrap [.engine] with pending := [] } = .next t) :=
  ⟨rfl, ⟨rfl, by decide⟩, ⟨rfl, by decide⟩, ⟨rfl, by decide⟩, rfl, rfl, by decide, _, rfl⟩

theorem witness_MisalignedAccessGetsErr :
    (0x001#12 : Offset).toNat % 4 ≠ 0 ∧ (0xFFF#12 : Offset).toNat % 4 ≠ 0 := by decide

theorem witness_ReservedOffsetsReadZeroIgnoreWrites :
    ((0x01C#12 : Offset).toNat % 4 = 0 ∧ (0x01C#12 : Offset).toNat = 0x01C) ∧
    ((0x068#12 : Offset).toNat % 4 = 0 ∧ 0x068 ≤ (0x068#12 : Offset).toNat) ∧
    ((0xFFC#12 : Offset).toNat % 4 = 0 ∧ (0xFFC#12 : Offset).toNat ≤ 0xFFC) := by decide

theorem witness_ReadsRevealNoKekAndNoPartialState :
    busyWrap.engine.busy = true ∧ lastUnwrap.engine.seq.phase = .run := by decide

theorem witness_WritesWhileBusyAreDropped :
    busyWrap.engine.busy = true ∧
    ((0x008#12 : Offset).toNat % 4 = 0 ∧ (0x008#12 : Offset).toNat = 0x008) ∧
    ((0x020#12 : Offset).toNat % 4 = 0 ∧ 0x020 ≤ (0x020#12 : Offset).toNat) ∧
    ((0x064#12 : Offset).toNat % 4 = 0 ∧ (0x064#12 : Offset).toNat ≤ 0x064) ∧
    ((0x018#12 : Offset).toNat % 4 = 0 ∧ (0x018#12 : Offset).toNat = 0x018) ∧
    ((0x068#12 : Offset).toNat % 4 = 0 ∧ 0x068 ≤ (0x068#12 : Offset).toNat) := by decide

/-- Two neighbours in KEK, and a length with the last DATA word. -/
theorem witness_OperandWritesCommute :
    State.reset.engine.busy = false ∧
    ((0x020#12 : Offset) ≠ 0x024#12 ∧ (0x020#12 : Offset).toNat % 4 = 0 ∧ 0x020 ≤ (0x020#12 : Offset).toNat ∧
      (0x024#12 : Offset).toNat % 4 = 0 ∧ (0x024#12 : Offset).toNat ≤ 0x064) ∧
    ((0x010#12 : Offset) ≠ 0x064#12 ∧ (0x010#12 : Offset).toNat = 0x010 ∧
      (0x064#12 : Offset).toNat % 4 = 0 ∧ (0x064#12 : Offset).toNat ≤ 0x064) := by decide

theorem witness_CommandWhileBusyIsDropped : busyWrap.engine.busy = true ∧ busyUnwrap.engine.busy = true := by decide

theorem witness_IllegalCommandCompletesWithCodeFive :
    State.reset.engine.busy = false ∧
    ((0x10#32).toNat / 2 ^ 4 ≠ 0 ∧ (0x80000000#32).toNat / 2 ^ 4 ≠ 0) ∧
    (4 ≤ (0x4#32).toNat % 2 ^ 4 ∧ 4 ≤ (0xF#32).toNat % 2 ^ 4) := by decide

theorem witness_ClearZeroesKeyMaterial : (withLengths 15#32 9#32).engine.busy = false := by decide

theorem witness_NopHasNoEffect : State.reset.engine.busy = false ∧ busyWrap.engine.busy = true := by decide

/-- The three codes by each command: the rows V-V2, V-V14, V-V17 and V-V3, V-V12, V-V20. -/
theorem witness_FailedValidationChangesOnlyTheOutcome :
    (withLengths 15#32 8#32).engine.busy = false ∧
    (validate .wrap 15#32 8#32).1 = .invalidKekLength ∧ (validate .wrap 16#32 17#32).1 = .invalidDataLength ∧
    (validate .wrap 16#32 24#32).1 = .dataTooLarge ∧ (validate .unwrap 15#32 24#32).1 = .invalidKekLength ∧
    (validate .unwrap 16#32 8#32).1 = .invalidDataLength ∧
    (validate .unwrap 16#32 32#32).1 = .dataTooLarge ∧ ErrCode.dataTooLarge ≠ .none := by decide

/-- The corners of R169's table. -/
theorem witness_WrapIsAccepted :
    (withLengths 16#32 8#32).engine.busy = false ∧
    (AcceptedChunks 16#32 1 ∧ (8#32).toNat = 8 * 1) ∧ (AcceptedChunks 16#32 2 ∧ (16#32).toNat = 8 * 2) ∧
    (AcceptedChunks 24#32 3 ∧ (24#32).toNat = 8 * 3) ∧ (AcceptedChunks 32#32 4 ∧ (32#32).toNat = 8 * 4) := by decide

theorem witness_UnwrapIsAccepted :
    (withLengths 16#32 16#32).engine.busy = false ∧
    (AcceptedChunks 16#32 1 ∧ (16#32).toNat = 8 * (1 + 1)) ∧ (AcceptedChunks 24#32 3 ∧ (32#32).toNat = 8 * (3 + 1)) ∧
    (AcceptedChunks 32#32 4 ∧ (40#32).toNat = 8 * (4 + 1)) := by decide

theorem witness_WrapStepChainsOneBlock :
    busyWrap.pending = [] ∧ (∃ key, busyWrap.engine.aesKey = some key) ∧ busyWrap.engine.seq.phase = .run ∧
    busyWrap.engine.seq.op = .wrap ∧
    busyWrap.engine.seq.i.toNat + 1 < busyWrap.engine.seq.n.toNat ∧
    (roundWrap.engine.seq.n.toNat ≤ roundWrap.engine.seq.i.toNat + 1 ∧ roundWrap.engine.seq.j.toNat < 5) ∧
    (lastWrap.engine.seq.n.toNat ≤ lastWrap.engine.seq.i.toNat + 1 ∧ 5 ≤ lastWrap.engine.seq.j.toNat) :=
  ⟨rfl, ⟨_, rfl⟩, rfl, rfl, by decide, by decide, by decide⟩

theorem witness_WrapVisitsThePairsInOrder :
    (withLengths 32#32 32#32).pending = [] ∧ (withLengths 32#32 32#32).engine.busy = false ∧
    AcceptedChunks 32#32 4 ∧ (32#32).toNat = 8 * 4 ∧ (∃ t, exec .wrap (withLengths 32#32 32#32) = .next t) ∧
    (23 < 6 * 4 ∧ 6 * 4 ≤ 24) :=
  ⟨rfl, by decide, by decide, by decide, ⟨_, rfl⟩, by decide⟩

theorem witness_LastWrapStepCompletes :
    lastWrap.engine.Inv ∧ lastWrap.pending = [] ∧ lastWrap.engine.busy = true ∧ lastWrap.engine.seq.op = .wrap ∧
    lastWrap.engine.seq.j.toNat = 5 ∧ lastWrap.engine.seq.i.toNat + 1 = lastWrap.engine.seq.n.toNat :=
  ⟨inv_lastWrap, rfl, by decide, rfl, by decide, by decide⟩

theorem witness_WrapComputesWrapFn :
    (withLengths 16#32 16#32).pending = [] ∧ (withLengths 16#32 16#32).engine.busy = false ∧
    AcceptedChunks 16#32 2 ∧ (16#32).toNat = 8 * 2 ∧ ∃ key, (withLengths 16#32 16#32).engine.aesKey = some key :=
  ⟨rfl, by decide, by decide, by decide, _, rfl⟩

theorem witness_UnwrapStepChainsOneBlock :
    busyUnwrap.pending = [] ∧ (∃ key, busyUnwrap.engine.aesKey = some key) ∧ busyUnwrap.engine.seq.phase = .run ∧
    busyUnwrap.engine.seq.op = .unwrap ∧ 0 < busyUnwrap.engine.seq.j.toNat + busyUnwrap.engine.seq.i.toNat ∧
    0 < busyUnwrap.engine.seq.i.toNat ∧
    (roundUnwrap.engine.seq.i.toNat = 0 ∧ 0 < roundUnwrap.engine.seq.j.toNat) :=
  ⟨rfl, ⟨_, rfl⟩, rfl, rfl, by decide, by decide, by decide⟩

theorem witness_UnwrapVisitsThePairsInReverse :
    (withLengths 24#32 32#32).pending = [] ∧ (withLengths 24#32 32#32).engine.busy = false ∧
    AcceptedChunks 24#32 3 ∧ (32#32).toNat = 8 * (3 + 1) ∧
    (∃ t, exec .unwrap (withLengths 24#32 32#32) = .next t) ∧ (17 < 6 * 3 ∧ 6 * 3 ≤ 18) :=
  ⟨rfl, by decide, by decide, by decide, ⟨_, rfl⟩, by decide⟩

/-- Both ends of the integrity check: a decryption that gives ICV first, and one that gives zero. -/
theorem witness_LastUnwrapStepChecksIntegrity :
    lastUnwrap.engine.Inv ∧ lastUnwrap.pending = [] ∧ (∃ key, lastUnwrap.engine.aesKey = some key) ∧
    lastUnwrap.engine.busy = true ∧ lastUnwrap.engine.seq.op = .unwrap ∧ lastUnwrap.engine.seq.j.toNat = 0 ∧
    lastUnwrap.engine.seq.i.toNat = 0 ∧
    (∀ key x, ((constPair (block icv 0#64)).dec key x).toNat / 2 ^ 64 = 0xA6A6A6A6A6A6A6A6) ∧
    (∀ key x, ((constPair 0#128).dec key x).toNat / 2 ^ 64 ≠ 0xA6A6A6A6A6A6A6A6) :=
  ⟨inv_lastUnwrap, rfl, ⟨_, rfl⟩, by decide, rfl, by decide, by decide,
    fun _ _ => show (block icv 0#64).toNat / 2 ^ 64 = _ by decide, fun _ _ => show ¬ (0#128).toNat / 2 ^ 64 = _ by decide⟩

/-- With a pair that always decrypts to b, the last step of UNWRAP leaves b's first half in A. -/
theorem unwrapRegs_constPair (b : Block) (key : AesKey) : (unwrapRegs (constPair b) key 0#64 [0#64]).1 = msb b := by
  have h : (wrapSchedule 1).reverse = [(5, 0), (4, 0), (3, 0), (2, 0), (1, 0)] ++ [(0, 0)] := by decide
  rw [unwrapRegs, List.length_singleton, h, List.foldl_append]
  rfl

theorem witness_UnwrapComputesUnwrapRegs :
    (withLengths 16#32 16#32).pending = [] ∧ (withLengths 16#32 16#32).engine.busy = false ∧
    AcceptedChunks 16#32 1 ∧ (16#32).toNat = 8 * (1 + 1) ∧
    (∃ key, (withLengths 16#32 16#32).engine.aesKey = some key) ∧
    (∀ key, (unwrapRegs (constPair (block icv 0#64)) key 0#64 [0#64]).1 = icv) ∧
    (∀ key, (unwrapRegs (constPair 0#128) key 0#64 [0#64]).1 ≠ icv) :=
  ⟨rfl, by decide, by decide, by decide, ⟨_, rfl⟩,
    fun key => (unwrapRegs_constPair _ key).trans (by decide),
    fun key h => absurd ((unwrapRegs_constPair _ key).symm.trans h) (by decide)⟩

theorem witness_UnwrapUndoesWrap :
    Config.aesPair.DecEnc ∧ (withLengths 16#32 16#32).pending = [] ∧ (withLengths 16#32 16#32).engine.busy = false ∧
    AcceptedChunks 16#32 2 ∧ (16#32).toNat = 8 * 2 :=
  ⟨Config.aesPair_decEnc, rfl, by decide, by decide, by decide⟩

theorem witness_UnwrapRegsIsABijection :
    idPair.DecEnc ∧ idPair.EncDec ∧ Config.aesPair.EncDec ∧ 1 ≤ 4 ∧ 4 ≤ 4 ∧
    [0#64, 1#64, 2#64, 3#64].length = 4 ∧ unwrapRegs idPair Fips197.key128 0#64 [0#64] =
      unwrapRegs idPair Fips197.key128 0#64 [0#64] :=
  ⟨fun _ _ => rfl, fun _ _ => rfl, Config.aesPair_encDec, by decide, by decide, rfl, rfl⟩

theorem witness_StepCounterRunsFromOneToSixN : 1 ≤ 4 ∧ 4 ≤ 4 ∧ 5 ≤ 5 ∧ 3 < 4 := by decide

theorem witness_EachCommandHasItsOutcomes :
    State.reset.engine.busy = false ∧
    (∀ i ∈ [Instr.wrap, .unwrap, .clear, .nop, .wr 0x008#12 0x4#32], ∃ t, exec i State.reset = .next t) ∧
    4 ≤ (0x4#32).toNat ∧
    (lastWrap.pending = [] ∧ lastWrap.engine.busy = true ∧ lastWrap.engine.seq.op = .wrap ∧
      ∃ w, stepWith idPair lastWrap = .next w ∧ w.engine.busy = false) ∧
    (lastUnwrap.pending = [] ∧ lastUnwrap.engine.busy = true ∧ lastUnwrap.engine.seq.op = .unwrap ∧
      ∃ w, stepWith (constPair 0#128) lastUnwrap = .next w ∧ w.engine.busy = false) :=
  ⟨by decide, fun i _ => by cases i <;> exact ⟨_, rfl⟩, by decide, ⟨rfl, by decide, rfl, _, rfl, rfl⟩,
    ⟨rfl, by decide, rfl, _, rfl, by decide⟩⟩

theorem witness_InterruptIsDoneAndEnabled :
    (∃ t, exec (.wr 0x00C#12 0x2#32) State.reset = .next t) ∧ (0x2#32).getLsbD 1 = true ∧
    (0x4#32).getLsbD 1 = false ∧ (∃ t, exec (.wr 0x004#12 0x1#32) State.reset = .next t) ∧
    busyWrap.engine.Inv ∧ busyWrap.engine.busy = true :=
  ⟨⟨_, rfl⟩, by decide, by decide, ⟨_, rfl⟩, inv_busyWrap, by decide⟩

theorem witness_ResetSetsEveryElement : (queued busyWrap [.reset]).pending = .reset :: [] := rfl

theorem witness_EveryStepKeepsTheInvariant :
    (queued busyWrap [.engine]).Inv ∧ ∃ t, step (queued busyWrap [.engine]) = .next t :=
  ⟨⟨inv_busyWrap.1, inv_busyWrap.2, inv_busyWrap.3, inv_busyWrap.4, inv_busyWrap.5, inv_busyWrap.6, inv_busyWrap.7,
    inv_busyWrap.8, inv_busyWrap.9, inv_busyWrap.10⟩, _, rfl⟩

theorem witness_OnlyIllFormedWordsStopTheMachine : busyWrap.Inv ∧ State.reset.Inv := ⟨inv_busyWrap, inv_reset⟩

/-- BUSY rises at an acceptance and falls at a last step. -/
theorem witness_BusyChangesOnlyAtAcceptanceAndCompletion :
    (∃ t, step (queued (withLengths 16#32 8#32) [.host (.cmd 0x1#32)]) = .next t ∧ t.engine.busy = true) ∧
    (withLengths 16#32 8#32).engine.busy = false ∧
    (lastWrap.Inv ∧ lastWrap.engine.busy = true ∧ ∃ t, step lastWrap = .next t ∧ t.engine.busy = false) :=
  ⟨⟨_, rfl, by decide⟩, by decide, inv_lastWrap, by decide, _, rfl, rfl⟩

theorem witness_OutcomeChangesOnlyAtCompletionAndAcceptance :
    lastWrap.Inv ∧ ∃ t, step lastWrap = .next t ∧ t.engine.done = true ∧ t.engine.outLen = 24#32 :=
  ⟨inv_lastWrap, _, rfl, rfl, rfl⟩

/-- DROP rises with a write while busy and falls with the acknowledgement. -/
theorem witness_DropChangesOnlyByDroppedWriteAndAck :
    busyWrap.engine.drop = false ∧
    (∃ t, step (queued busyWrap [.host (.cmd 0x0#32)]) = .next t ∧ t.engine.drop = true) ∧
    (∃ t, step (queued busyWrap [.host (encode (.wr 0x064#12 0x0#32))]) = .next t ∧ t.engine.drop = true) ∧
    ∃ t, step (queued (after .nop busyWrap) [.host (encode (.wr 0x00C#12 0x4#32))]) = .next t ∧
      (after .nop busyWrap).engine.drop = true ∧ t.engine.drop = false :=
  ⟨by decide, ⟨_, rfl, by decide⟩, ⟨_, rfl, by decide⟩, _, rfl, by decide, by decide⟩

theorem witness_OnlyTheHostChangesKekAndLengths :
    ∃ t, step (queued State.reset [.host (encode (.wr 0x010#12 0x10#32))]) = .next t ∧ t.engine.kekLen = 16#32 :=
  ⟨_, rfl, by decide⟩

/-- The KEK with every byte above KEK_LEN = 16 changed. -/
theorem witness_KekBytesAboveTheLengthAreIgnored :
    let kek : Vector Byte 32 := Vector.ofFn fun b => if b.val < 16 then 0#8 else 0xFF#8
    (∀ b : Fin 32, b.val < busyWrap.engine.kekLen.toNat → kek[b] = busyWrap.engine.kek[b]) ∧
    kek ≠ busyWrap.engine.kek ∧ (∃ e, Engine.step idPair busyWrap.engine = .ok e) ∧
    ∃ f, Engine.step idPair Engine.reset = .error f :=
  ⟨by decide, by decide, ⟨_, rfl⟩, _, rfl⟩

theorem witness_RunningCommandCompletesInItsSteps :
    busyWrap.Inv ∧ busyWrap.pending = [] ∧ busyWrap.engine.busy = true ∧ busyWrap.engine.stepsLeft = 12 ∧
    lastWrap.engine.stepsLeft = 1 := ⟨inv_busyWrap, rfl, by decide, by decide, by decide⟩

/-- A dropped CLEAR, an engine step and a read of STATUS. -/
theorem witness_HostTrafficCannotAlterARunningCommand :
    let q : List Event := [.host (.cmd 0x3#32), .engine, .host (encode (.rd 0x00C#12))]
    (queued busyWrap q).Inv ∧ busyWrap.engine.busy = true ∧
    (∀ ev ∈ q, ev = .engine ∨ ∃ w : HostWord, ev = .host w ∧ w.wellFormed = true) ∧
    q.count .engine < busyWrap.engine.stepsLeft := by
  refine ⟨inv_busyWrap, by decide, ?_, by decide⟩
  intro ev h
  simp only [List.mem_cons, List.not_mem_nil, or_false] at h
  rcases h with rfl | rfl | rfl
  · exact .inr ⟨_, rfl, by decide⟩
  · exact .inl rfl
  · exact .inr ⟨_, rfl, by decide⟩

/-- `setkek` of V-S1's 16 bytes, and of no bytes at all. -/
theorem witness_SetkekLoadsTheKek :
    State.reset.engine.busy = false ∧
    (∃ lines, Pseudo.expand (.setkek ((List.range 16).map (BitVec.ofNat 8))) = some (lines.map .one) ∧
      (queued State.reset (assemble lines)).pending = assemble lines) ∧
    Pseudo.expand (.setkek []) = some [.one (.wr 0x010#12 0#32)] :=
  ⟨by decide, ⟨_, rfl, rfl⟩, by decide⟩

theorem witness_InstancesAreIndependent :
    ∃ q, Platform.stepAt idPair [⟨0x1000, busyWrap⟩, ⟨0x2000, State.reset⟩] 0 = .next q ∧ (1 : Nat) ≠ 0 :=
  ⟨_, rfl, by decide⟩

/-- The loop stands at a busy and at an idle engine. -/
theorem witness_WaitIdleRepeatsUntilAReadSeesIdle :
    (HostRun.mk busyWrap [.untilIdle]).lines = .untilIdle :: [] ∧ busyWrap.engine.busy = true ∧
    (HostRun.mk State.reset [.untilIdle]).lines = .untilIdle :: [] ∧ State.reset.engine.busy = false := by decide

/-- Twelve steps left: eleven with a read between two of them, and a last one. -/
theorem witness_WaitIdleEndsAtTheCompletionPoint :
    let q : List Agent := .host :: List.replicate 5 .engine ++ .host :: List.replicate 6 .engine
    busyWrap.Inv ∧ busyWrap.engine.busy = true ∧ (HostRun.mk busyWrap [.untilIdle]).lines = .untilIdle :: [] ∧
    .reset ∉ q ∧ q.count .engine < busyWrap.engine.stepsLeft ∧
    q.count .engine + 1 = busyWrap.engine.stepsLeft :=
  ⟨inv_busyWrap, by decide, rfl, by decide, by decide, by decide⟩

end Sys2Proof.Tests
end

/-! PROOFS. Family 00_scope: the instances of a platform (R262), the key bytes of an engine step (R29, R103), and the
bijection of UnwrapRegs (R209). -/

namespace Sys2Proof.Machine

/-! ### The instances of a platform -/

/-- Everything an action at entry k that answers a next platform can have done. -/
theorem Platform.stepAt_cases {aes : AesPair} {p q : Platform} {k : Nat} (h : Platform.stepAt aes p k = .next q) :
    q = p ∨ ∃ d s, p[k]? = some d ∧ stepWith aes d.state = .next s ∧ q = p.set k { d with state := s } := by
  unfold Platform.stepAt at h
  split at h
  · exact .inl (by simpa using h.symm)
  · rename_i d hd
    split at h
    · exact .inr ⟨d, _, hd, ‹_›, by simpa using h.symm⟩
    · cases h
    · cases h

/-- Settles O55: an action at entry k writes at most entry k back. -/
theorem instancesAreIndependent : Obligations.InstancesAreIndependent := by
  intro aes p q k m h hm
  obtain rfl | ⟨d, s, -, -, rfl⟩ := Platform.stepAt_cases h
  · exact ⟨rfl, rfl⟩
  · exact ⟨List.getElem?_set_ne hm.symm, List.length_set⟩

/-! ### The bytes of KEK a step depends on -/

/-- KEK[0 .. n) as the key vector that `Engine.aesKey` builds. -/
theorem toList_ofFn_kek (kek : Vector Byte 32) (n : Nat) (hn : n ≤ 32) :
    (Vector.ofFn fun b : Fin n => kek[b.val]'(by omega)).toList = kek.toList.take n := by
  apply List.ext_getElem
  · simp [hn]
  · simp

/-- R29, R103: the key of a step is KEK[0 .. KEK_LEN) for the key lengths of R6, and there is none for another. -/
theorem Engine.aesKey_byteList (e : Engine) :
    e.aesKey.map AesKey.byteList =
      if e.kekLen.toNat = 16 ∨ e.kekLen.toNat = 24 ∨ e.kekLen.toNat = 32 then
        some (e.kek.toList.take e.kekLen.toNat)
      else none := by
  by_cases hlen : e.kekLen.toNat = 16 ∨ e.kekLen.toNat = 24 ∨ e.kekLen.toNat = 32
  · rw [if_pos hlen]
    rcases hlen with h | h | h
    · have hk : e.kekLen = 16#32 := BitVec.eq_of_toNat_eq h
      simp [Engine.aesKey, hk, AesKey.byteList, toList_ofFn_kek]
    · have hk : e.kekLen = 24#32 := BitVec.eq_of_toNat_eq h
      simp [Engine.aesKey, hk, AesKey.byteList, toList_ofFn_kek]
    · have hk : e.kekLen = 32#32 := BitVec.eq_of_toNat_eq h
      simp [Engine.aesKey, hk, AesKey.byteList]
  · rw [if_neg hlen, Option.map_eq_none_iff, Option.eq_none_iff_forall_ne_some]
    exact fun key hkey => hlen ((Engine.aesKey_isSome e).1 ⟨key, hkey⟩)

section
variable {e : Engine} {kek : Vector Byte 32}

/-- The key is a function of the bytes below KEK_LEN. -/
theorem Engine.aesKey_kek_congr (h : ∀ b : Fin 32, b.val < e.kekLen.toNat → kek[b] = e.kek[b]) :
    { e with kek := kek }.aesKey = e.aesKey := by
  have key_bytes (n : Nat) (hn : n ≤ 32) (hlen : e.kekLen.toNat = n) :
      (Vector.ofFn fun b : Fin n => kek[b.val]'(by omega)) = Vector.ofFn fun b : Fin n => e.kek[b.val]'(by omega) :=
    congrArg Vector.ofFn (funext fun b => h ⟨b.val, by omega⟩ (by show b.val < _; omega))
  unfold Engine.aesKey
  split
  · rename_i hk
    rw [key_bytes 16 (by decide) (congrArg BitVec.toNat hk)]
  · split
    · rename_i hk
      rw [key_bytes 24 (by decide) (congrArg BitVec.toNat hk)]
    · split
      · rename_i hk
        rw [key_bytes 32 (by decide) (congrArg BitVec.toNat hk)]
      · rfl

/-- R184: the advance of WRAP neither reads nor writes KEK. -/
theorem Engine.advanceWrap_setKek (e : Engine) (kek : Vector Byte 32) :
    { e with kek := kek }.advanceWrap = { e.advanceWrap with kek := kek } := by
  unfold Engine.advanceWrap
  split
  · rfl
  · split <;> rfl

/-- R205, R206: the end of an UNWRAP neither reads nor writes KEK. -/
theorem Engine.unwrapFinish_setKek (e : Engine) (kek : Vector Byte 32) :
    { e with kek := kek }.unwrapFinish = { e.unwrapFinish with kek := kek } := by
  unfold Engine.unwrapFinish
  split <;> rfl

/-- R204: the advance of UNWRAP neither reads nor writes KEK. -/
theorem Engine.advanceUnwrap_setKek (e : Engine) (kek : Vector Byte 32) :
    { e with kek := kek }.advanceUnwrap = { e.advanceUnwrap with kek := kek } := by
  unfold Engine.advanceUnwrap
  split
  · rfl
  · split
    · rfl
    · exact Engine.unwrapFinish_setKek e kek

/-- R183, R203: a step that sees the same key does the same, and keeps KEK as it finds it. -/
theorem Engine.step_kek_congr (aes : AesPair) (h : { e with kek := kek }.aesKey = e.aesKey) :
    Engine.step aes { e with kek := kek } = (Engine.step aes e).map fun e' => { e' with kek := kek } := by
  unfold Engine.step
  rw [h]
  cases e.aesKey with
  | none => rfl
  | some key =>
    cases ho : e.seq.op with
    | wrap => exact congrArg Except.ok (Engine.advanceWrap_setKek (e.wrapChain aes key) kek)
    | unwrap => exact congrArg Except.ok (Engine.advanceUnwrap_setKek (e.unwrapChain aes key) kek)

end

/-- Settles O50: the key is a function of KEK[0 .. KEK_LEN), and nothing else of a step reads KEK. -/
theorem kekBytesAboveTheLengthAreIgnored : Obligations.KekBytesAboveTheLengthAreIgnored := by
  intro aes e kek
  refine ⟨Engine.aesKey_byteList e, fun h => ?_⟩
  have hstep := Engine.step_kek_congr aes (Engine.aesKey_kek_congr h)
  exact ⟨fun e' he => by rw [hstep, he]; rfl, fun f hf => by rw [hstep, hf]; rfl⟩

/-! ### The halves of a block and the XOR of the counter (R220 to R225) -/

@[simp] theorem block_msb_lsb (b : Block) : block (msb b) (lsb b) = b :=
  (BitVec.extractLsb'_append_extractLsb'_eq_extractLsb' rfl).trans BitVec.extractLsb'_eq_self

@[simp] theorem msb_block (a r : Chunk) : msb (block a r) = a := BitVec.extractLsb'_append_eq_left

@[simp] theorem lsb_block (a r : Chunk) : lsb (block a r) = r := BitVec.extractLsb'_append_eq_right

@[simp] theorem icvXor_icvXor (a : Chunk) (t : Byte) : icvXor (icvXor a t) t = a := by
  simp only [icvXor, xor_cancel_right]

/-! ### UnwrapRegs and its inverse -/

/-- The loop of WrapFn (R186) from any A, not only from ICV. -/
def wrapRegs (aes : AesPair) (key : AesKey) (a : Chunk) (r : List Chunk) : Chunk × List Chunk :=
  (wrapSchedule r.length).foldl (wrapBody aes key r.length) (a, r)

theorem wrapFn_eq_wrapRegs (aes : AesPair) (key : AesKey) (plain : List Chunk) :
    wrapFn aes key plain = (wrapRegs aes key icv plain).1 :: (wrapRegs aes key icv plain).2 := rfl

theorem mem_wrapSchedule {n : Nat} {p : Nat × Nat} : p ∈ wrapSchedule n ↔ p.1 < 6 ∧ p.2 < n := by
  obtain ⟨j, i⟩ := p
  simp [wrapSchedule]

section
variable {aes : AesPair} {key : AesKey} {n : Nat}

@[simp] theorem length_wrapBody (v : Chunk × List Chunk) (p : Nat × Nat) :
    (wrapBody aes key n v p).2.length = v.2.length := List.length_set

@[simp] theorem length_unwrapBody (v : Chunk × List Chunk) (p : Nat × Nat) :
    (unwrapBody aes key n v p).2.length = v.2.length := List.length_set

/-- One UNWRAP step at (j, i) is undone by the WRAP step there. -/
theorem wrapBody_unwrapBody (h : aes.EncDec) {v : Chunk × List Chunk} {p : Nat × Nat} (hp : p.2 < v.2.length) :
    wrapBody aes key n (unwrapBody aes key n v p) p = v := by
  simp [wrapBody, unwrapBody, hp, h key _]

/-- One WRAP step at (j, i) is undone by the UNWRAP step there. -/
theorem unwrapBody_wrapBody (h : aes.DecEnc) {v : Chunk × List Chunk} {p : Nat × Nat} (hp : p.2 < v.2.length) :
    unwrapBody aes key n (wrapBody aes key n v p) p = v := by
  simp [wrapBody, unwrapBody, hp, h key _]
end

/-- A fold whose every step g undoes, on the values that satisfy P, is undone by the fold of g over the reversed list. -/
theorem foldl_reverse_foldl {α β : Type} {f g : β → α → β} {P : β → Prop} {l : List α}
    (hP : ∀ x ∈ l, ∀ v, P v → P (f v x)) (hgf : ∀ x ∈ l, ∀ v, P v → g (f v x) x = v) {v : β} (hv : P v) :
    l.reverse.foldl g (l.foldl f v) = v := by
  induction l generalizing v with
  | nil => rfl
  | cons x l ih =>
    have hrest := ih (fun y hy => hP y (.tail x hy)) (fun y hy => hgf y (.tail x hy)) (hP x (.head l) v hv)
    rw [List.foldl_cons, List.reverse_cons, List.foldl_append, hrest]
    exact hgf x (.head l) v hv

section
variable (aes : AesPair) (key : AesKey) (a : Chunk) (r : List Chunk)

@[simp] theorem length_wrapRegs : (wrapRegs aes key a r).2.length = r.length :=
  List.foldlRecOn (motive := fun v => v.2.length = r.length) _ _ rfl fun v hv p _ => (length_wrapBody v p).trans hv

@[simp] theorem length_unwrapRegs : (unwrapRegs aes key a r).2.length = r.length :=
  List.foldlRecOn (motive := fun v => v.2.length = r.length) _ _ rfl fun v hv p _ => (length_unwrapBody v p).trans hv

/-- R209: encryption undoing decryption, the loop of WRAP undoes UnwrapRegs. -/
theorem wrapRegs_unwrapRegs (h : aes.EncDec) :
    wrapRegs aes key (unwrapRegs aes key a r).1 (unwrapRegs aes key a r).2 = (a, r) := by
  have hfold := foldl_reverse_foldl (l := (wrapSchedule r.length).reverse) (f := unwrapBody aes key r.length)
    (g := wrapBody aes key r.length) (P := fun v => v.2.length = r.length) (v := (a, r))
    (fun p _ v hv => (length_unwrapBody v p).trans hv)
    (fun p hp v hv => wrapBody_unwrapBody h (by rw [hv]; exact (mem_wrapSchedule.1 (List.mem_reverse.1 hp)).2)) rfl
  rw [wrapRegs, length_unwrapRegs]
  rwa [List.reverse_reverse] at hfold

/-- R208, R209: decryption undoing encryption, UnwrapRegs undoes the loop of WRAP. -/
theorem unwrapRegs_wrapRegs (h : aes.DecEnc) :
    unwrapRegs aes key (wrapRegs aes key a r).1 (wrapRegs aes key a r).2 = (a, r) := by
  rw [unwrapRegs, length_wrapRegs]
  exact foldl_reverse_foldl (P := fun v => v.2.length = r.length)
    (fun p _ v hv => (length_wrapBody v p).trans hv)
    (fun p hp v hv => unwrapBody_wrapBody h (by rw [hv]; exact (mem_wrapSchedule.1 hp).2)) rfl
end

/-- Settles O35: UnwrapRegs keeps the length, and the loop of WRAP is its inverse on both sides. -/
theorem unwrapRegsIsABijection : Obligations.UnwrapRegsIsABijection := by
  intro aes key n hde hed _ _
  refine ⟨fun a r hr => (length_unwrapRegs aes key a r).trans hr, fun a a' r r' _ _ heq => ?_, fun a r hr => ?_⟩
  · have hinv := wrapRegs_unwrapRegs aes key a r hed
    rw [heq, wrapRegs_unwrapRegs aes key a' r' hed] at hinv
    simpa using hinv.symm
  · exact ⟨_, _, (length_wrapRegs aes key a r).trans hr, unwrapRegs_wrapRegs aes key a r hde⟩

end Sys2Proof.Machine

/-! PROOFS. Family 10_state: what a host transaction, an engine step and a step of the machine do to the engine, the
invariant (R34 to R43), the interrupt (R44), reset (R47, R270), and the end of a running command (R45, R76, R77). -/

namespace Sys2Proof.Machine

/-! ### Fields the updates leave as they are -/

@[simp] theorem Engine.statusWrite_irqEn (e : Engine) (v : Word) : (e.statusWrite v).irqEn = e.irqEn := rfl
@[simp] theorem Engine.clear_busy (e : Engine) : e.clear.busy = false := rfl
@[simp] theorem Engine.clear_drop (e : Engine) : e.clear.drop = e.drop := rfl

/-! ### The register map, from a register to its offset -/

theorem toNat_kek_offset (k : Fin 8) : (WindowReg.kek k).offset.toNat = 0x020 + 4 * k.val := by
  have hk := k.isLt
  simp only [WindowReg.offset, BitVec.toNat_ofNat]
  omega

theorem toNat_data_offset (w : Fin 10) : (WindowReg.data w).offset.toNat = 0x040 + 4 * w.val := by
  have hw := w.isLt
  simp only [WindowReg.offset, BitVec.toNat_ofNat]
  omega

/-- R62: a named register stands at its own offset only. -/
theorem offset_windowReg {off : Offset} (hal : off.toNat % 4 = 0) (hw : windowReg off ≠ .reserved) :
    (windowReg off).offset = off := by
  unfold windowReg at hw ⊢
  split_ifs at hw ⊢ with hid hctrl hcmd hstatus hkl hdl hol hkek hdata
  · exact hid.symm
  · exact hctrl.symm
  · exact hcmd.symm
  · exact hstatus.symm
  · exact hkl.symm
  · exact hdl.symm
  · exact hol.symm
  · exact BitVec.eq_of_toNat_eq (by simp only [toNat_kek_offset]; omega)
  · exact BitVec.eq_of_toNat_eq (by simp only [toNat_data_offset]; omega)
  · exact absurd rfl hw

/-! ### Validation as a number (R169) -/

/-- R39, R169: the DATA_LEN of a command on n data chunks. -/
def Op.dataBytes : Op → Nat → Nat
  | .wrap, n => 8 * n
  | .unwrap, n => 8 * (n + 1)

/-- R160 to R169: validation accepts exactly the lengths of R169's table. -/
theorem validate_eq_none_iff (op : Op) (k d : Word) (n : Nat) :
    validate op k d = (.none, n) ↔ AcceptedChunks k n ∧ d.toNat = op.dataBytes n := by
  cases op <;> simp only [validate, Op.dataBytes, AcceptedChunks]
  all_goals repeat' split
  all_goals simp only [Prod.mk.injEq, reduceCtorEq, false_and, true_and, false_iff]
  all_goals omega

/-! ### The commands, by their number and by the transaction that issues them -/

/-- The command that starts an operation. -/
def Op.command : Op → Command
  | .wrap => .wrap
  | .unwrap => .unwrap

/-- R101, R110: the transactions that issue a command, a CMD row or a write to CMD. -/
inductive Issues : Instr → Command → Prop
  | nop : Issues .nop .nop
  | wrap : Issues .wrap .wrap
  | unwrap : Issues .unwrap .unwrap
  | clear : Issues .clear .clear
  | wr {v : Word} {c : Command} (h : decodeCmd v = c) : Issues (.wr 0x008#12 v) c

/-- R182, R202: acceptance of an operation on n chunks. -/
def Engine.accept (e : Engine) : Op → Nat → Engine
  | .wrap => e.acceptWrap
  | .unwrap => e.acceptUnwrap

/-- R140: an idle engine performs a command. -/
def Engine.runCommand (e : Engine) : Command → Engine
  | .nop => e.nop
  | .wrap => e.issue .wrap (e.accept .wrap)
  | .unwrap => e.issue .unwrap (e.accept .unwrap)
  | .clear => e.clear
  | .illegal => e.illegal

theorem Engine.cmdWrite_eq (e : Engine) (v : Word) :
    e.cmdWrite v = e.unlessBusy fun e => e.runCommand (decodeCmd v) := by
  unfold Engine.cmdWrite
  cases decodeCmd v <;> rfl

section
variable (e : Engine) (op : Op) (n : Nat)

@[simp] theorem Engine.accept_busy : (e.accept op n).busy = true := by cases op <;> rfl
@[simp] theorem Engine.accept_done : (e.accept op n).done = false := by cases op <;> rfl
@[simp] theorem Engine.accept_err : (e.accept op n).err = 0#4 := by cases op <;> rfl
@[simp] theorem Engine.accept_outLen : (e.accept op n).outLen = 0#32 := by cases op <;> rfl
@[simp] theorem Engine.accept_drop : (e.accept op n).drop = e.drop := by cases op <;> rfl
@[simp] theorem Engine.accept_kek : (e.accept op n).kek = e.kek := by cases op <;> rfl
@[simp] theorem Engine.accept_kekLen : (e.accept op n).kekLen = e.kekLen := by cases op <;> rfl
@[simp] theorem Engine.accept_dataLen : (e.accept op n).dataLen = e.dataLen := by cases op <;> rfl
end

/-- R101, R102: a command is issued by its row or by the write of its word, and an illegal one by a write only. -/
theorem Issues.cases {i : Instr} {c : Command} (h : Issues i c) :
    c = .nop ∧ (i = .nop ∨ i = .wr 0x008#12 0#32) ∨ c = .wrap ∧ (i = .wrap ∨ i = .wr 0x008#12 1#32) ∨
      c = .unwrap ∧ (i = .unwrap ∨ i = .wr 0x008#12 2#32) ∨ c = .clear ∧ (i = .clear ∨ i = .wr 0x008#12 3#32) ∨
      c = .illegal ∧ ∃ v, i = .wr 0x008#12 v := by
  cases h with
  | nop => exact .inl ⟨rfl, .inl rfl⟩
  | wrap => exact .inr (.inl ⟨rfl, .inl rfl⟩)
  | unwrap => exact .inr (.inr (.inl ⟨rfl, .inl rfl⟩))
  | clear => exact .inr (.inr (.inr (.inl ⟨rfl, .inl rfl⟩)))
  | @wr v _ h =>
    subst h
    obtain ⟨hv, hd⟩ | ⟨hv, hd⟩ | ⟨hv, hd⟩ | ⟨hv, hd⟩ | ⟨-, hd⟩ := decodeCmd_cases v
    · obtain rfl : v = 0#32 := BitVec.eq_of_toNat_eq hv
      exact .inl ⟨hd, .inr rfl⟩
    · obtain rfl : v = 1#32 := BitVec.eq_of_toNat_eq hv
      exact .inr (.inl ⟨hd, .inr rfl⟩)
    · obtain rfl : v = 2#32 := BitVec.eq_of_toNat_eq hv
      exact .inr (.inr (.inl ⟨hd, .inr rfl⟩))
    · obtain rfl : v = 3#32 := BitVec.eq_of_toNat_eq hv
      exact .inr (.inr (.inr (.inl ⟨hd, .inr rfl⟩)))
    · exact .inr (.inr (.inr (.inr ⟨hd, v, rfl⟩)))

/-! ### What a host transaction does to the engine -/

/-- R75, R141: the transactions that a running command holds off. -/
def HeldOff : Instr → Prop
  | .rd _ => False
  | .wr off _ => off.toNat % 4 = 0 ∧
      (off.toNat = 0x008 ∨ off.toNat = 0x010 ∨ off.toNat = 0x014 ∨ 0x020 ≤ off.toNat ∧ off.toNat ≤ 0x064)
  | .nop | .wrap | .unwrap | .clear => True

theorem heldOff_kek (k : Fin 8) (v : Word) : HeldOff (.wr (WindowReg.kek k).offset v) := by
  have hk := k.isLt
  simp only [HeldOff, toNat_kek_offset]
  omega

theorem heldOff_data (w : Fin 10) (v : Word) : HeldOff (.wr (WindowReg.data w).offset v) := by
  have hw := w.isLt
  simp only [HeldOff, toNat_data_offset]
  omega

theorem Issues.heldOff {i : Instr} {c : Command} (h : Issues i c) : HeldOff i := by
  cases h with
  | wr h => exact ⟨rfl, .inl rfl⟩
  | nop | wrap | unwrap | clear => trivial

/-- R66, R67, R75, R140 to R145: everything a host transaction can do to the engine. -/
inductive HostEffect (e : Engine) : Instr → Engine → Prop
  | same (i : Instr) : HostEffect e i e
  | dropped {i : Instr} (hbusy : e.busy = true) (hi : HeldOff i) : HostEffect e i e.dropWrite
  | ctrl (v : Word) : HostEffect e (.wr 0x004#12 v) (e.ctrlWrite v)
  | status (v : Word) : HostEffect e (.wr 0x00C#12 v) (e.statusWrite v)
  | kekLen (v : Word) (hidle : e.busy = false) : HostEffect e (.wr 0x010#12 v) { e with kekLen := v }
  | dataLen (v : Word) (hidle : e.busy = false) : HostEffect e (.wr 0x014#12 v) { e with dataLen := v }
  | kek (k : Fin 8) (v : Word) (hidle : e.busy = false) :
      HostEffect e (.wr (WindowReg.kek k).offset v) (e.setKekWord k v)
  | data (w : Fin 10) (v : Word) (hidle : e.busy = false) :
      HostEffect e (.wr (WindowReg.data w).offset v) (e.setDataWord w v)
  | cleared {i : Instr} (hidle : e.busy = false) (hi : Issues i .clear) : HostEffect e i e.clear
  | rejected {i : Instr} {c : Command} (code : ErrCode) (hidle : e.busy = false) (hi : Issues i c) (hc : c ≠ .nop) :
      HostEffect e i (e.complete code 0#32)
  | accepted {i : Instr} (op : Op) (n : Nat) (hidle : e.busy = false) (hi : Issues i op.command)
      (hv : validate op e.kekLen e.dataLen = (.none, n)) : HostEffect e i (e.accept op n)

section
variable {e : Engine} {i : Instr}

/-- R75: a transaction that BUSY holds off is dropped, or does what it does while idle. -/
theorem HostEffect.unlessBusy {f : Engine → Engine} (hi : HeldOff i) (hf : e.busy = false → HostEffect e i (f e)) :
    HostEffect e i (e.unlessBusy f) := by
  obtain ⟨hb, h⟩ | ⟨hb, h⟩ := e.unlessBusy_cases f
  · exact h ▸ .dropped hb hi
  · exact h ▸ hf hb

/-- R181, R201: an issue is accepted or rejected. -/
theorem HostEffect.issue {op : Op} (hidle : e.busy = false) (hi : Issues i op.command) :
    HostEffect e i (e.issue op (e.accept op)) := by
  obtain ⟨n, hv, h⟩ | ⟨code, -, -, h⟩ := e.issue_cases op (e.accept op)
  · exact h ▸ .accepted op n hidle hi hv
  · exact h ▸ .rejected code hidle hi (by cases op <;> decide)

/-- R140 to R145: each command, and each way to issue it. -/
theorem HostEffect.command {c : Command} (hi : Issues i c) :
    HostEffect e i (e.unlessBusy fun e => e.runCommand c) := by
  refine .unlessBusy hi.heldOff fun hidle => ?_
  cases c with
  | nop => exact .same i
  | wrap => exact .issue (op := .wrap) hidle hi
  | unwrap => exact .issue (op := .unwrap) hidle hi
  | clear => exact .cleared hidle hi
  | illegal => exact .rejected .illegalCommand hidle hi (by decide)

/-- R67, R70, R75: the write of each register, at its own offset. -/
theorem HostEffect.writeReg (v : Word) (x : WindowReg) : HostEffect e (.wr x.offset v) (e.writeReg v x) := by
  cases x with
  | id | outLen | reserved => exact .same _
  | ctrl => exact .ctrl v
  | cmd =>
    have hcmd := HostEffect.command (e := e) (.wr (v := v) rfl)
    rwa [← Engine.cmdWrite_eq] at hcmd
  | status => exact .status v
  | kekLen => exact .unlessBusy (f := fun e => { e with kekLen := v }) ⟨rfl, .inr (.inl rfl)⟩ (.kekLen v)
  | dataLen => exact .unlessBusy (f := fun e => { e with dataLen := v }) ⟨rfl, .inr (.inr (.inl rfl))⟩ (.dataLen v)
  | kek k => exact .unlessBusy (f := fun e => e.setKekWord k v) (heldOff_kek k v) (.kek k v)
  | data w => exact .unlessBusy (f := fun e => e.setDataWord w v) (heldOff_data w v) (.data w v)

/-- R67, R68: a write at any offset. -/
theorem HostEffect.memWrite (off : Offset) (v : Word) : HostEffect e (.wr off v) (e.memWrite off v) := by
  by_cases hal : off.toNat % 4 = 0
  · rw [memWrite_of_aligned hal]
    by_cases hr : windowReg off = .reserved
    · rw [hr]
      exact .same _
    · have heff := HostEffect.writeReg (e := e) v (windowReg off)
      rwa [offset_windowReg hal hr] at heff
  · rw [memWrite_of_misaligned hal]
    exact .same _
end

theorem exec_hostEffect {i : Instr} {s t : State} (h : exec i s = .next t) : HostEffect s.engine i t.engine := by
  cases i <;> cases h
  case rd off => exact .same _
  case wr off v => exact .memWrite off v
  case nop => exact .command .nop
  case wrap => exact .command .wrap
  case unwrap => exact .command .unwrap
  case clear => exact .command .clear

/-! ### What an engine step does -/

/-- R183, R203: an engine step touches neither the operands nor the host's bits. -/
theorem Engine.step_frame {aes : AesPair} {e e' : Engine} (h : Engine.step aes e = .ok e') :
    e'.kek = e.kek ∧ e'.kekLen = e.kekLen ∧ e'.dataLen = e.dataLen ∧ e'.drop = e.drop ∧ e'.irqEn = e.irqEn := by
  obtain ⟨key, -, ⟨-, rfl⟩ | ⟨-, rfl⟩⟩ := Engine.step_cases h
  · obtain ⟨-, h⟩ | ⟨-, -, h⟩ | ⟨-, -, h⟩ := (e.wrapChain aes key).advanceWrap_cases
    · simp [h]
    · simp [h]
    · simp [h, Engine.wrapComplete]
  · obtain ⟨-, h⟩ | ⟨-, -, h⟩ | ⟨-, -, h⟩ := (e.unwrapChain aes key).advanceUnwrap_cases
    · simp [h]
    · simp [h]
    · obtain ⟨-, hf⟩ | ⟨-, hf⟩ := (e.unwrapChain aes key).unwrapFinish_cases
      · simp [h, hf]
      · simp [h, hf]

/-- The sequencer at another position of the running command. -/
def Engine.moveTo (e : Engine) (j : BitVec 3) (i : BitVec 2) : Engine :=
  { e with seq := { e.seq with j := j, i := i } }

/-- What an engine step does from a running state of the invariant: the sequencer moves to the next position, one step
nearer to the end, or the command completes (R184, R204, R145). -/
inductive Engine.Progress (e : Engine) : Engine → Prop
  | move (a : Chunk) (r : Vector Chunk 4) (j : BitVec 3) (i : BitVec 2) (hj : j.toNat ≤ 5)
      (hi : i.toNat + 1 ≤ e.seq.n.toNat)
      (hleft : (e.moveTo j i).stepsLeft + 1 = e.stepsLeft) :
      e.Progress ({ e with a := a, r := r }.moveTo j i)
  | finish (a : Chunk) (r : Vector Chunk 4) (c : ErrCode) (l : Word) (hl : l ≠ 0#32 → c = .none)
      (hlen : l.toNat % 8 = 0 ∧ l.toNat ≤ 40) (hleft : e.stepsLeft = 1) :
      e.Progress ({ e with a := a, r := r }.complete c l)

theorem Engine.stepsLeft_wrap {e : Engine} (hb : e.busy = true) (ho : e.seq.op = .wrap) :
    e.stepsLeft = 6 * e.seq.n.toNat - (e.seq.n.toNat * e.seq.j.toNat + e.seq.i.toNat) := by
  simp only [Engine.stepsLeft, e.busy_iff.1 hb, ho]

theorem Engine.stepsLeft_moveTo_wrap {e : Engine} (hb : e.busy = true) (ho : e.seq.op = .wrap) (j : BitVec 3)
    (i : BitVec 2) : (e.moveTo j i).stepsLeft = 6 * e.seq.n.toNat - (e.seq.n.toNat * j.toNat + i.toNat) :=
  Engine.stepsLeft_wrap (e := e.moveTo j i) hb ho

theorem Engine.stepsLeft_unwrap {e : Engine} (hb : e.busy = true) (ho : e.seq.op = .unwrap) :
    e.stepsLeft = e.seq.n.toNat * e.seq.j.toNat + e.seq.i.toNat + 1 := by
  simp only [Engine.stepsLeft, e.busy_iff.1 hb, ho]

theorem Engine.stepsLeft_moveTo_unwrap {e : Engine} (hb : e.busy = true) (ho : e.seq.op = .unwrap) (j : BitVec 3)
    (i : BitVec 2) : (e.moveTo j i).stepsLeft = e.seq.n.toNat * j.toNat + i.toNat + 1 :=
  Engine.stepsLeft_unwrap (e := e.moveTo j i) hb ho

/-- A position that R43 allows lies in the schedule. -/
theorem Engine.Inv.position_lt {e : Engine} (hinv : e.Inv) (hb : e.busy = true) :
    e.seq.n.toNat * e.seq.j.toNat + e.seq.i.toNat + 1 ≤ 6 * e.seq.n.toNat := by
  have hj := Nat.mul_le_mul_left e.seq.n.toNat (hinv.run_j hb)
  have hi := hinv.run_i hb
  omega

theorem Engine.advanceWrap_progress {e : Engine} (hinv : e.Inv) (hb : e.busy = true) (ho : e.seq.op = .wrap) :
    e.Progress e.advanceWrap := by
  obtain ⟨hn1, hn4⟩ := hinv.run_n hb
  have hj5 := hinv.run_j hb
  have hi := hinv.run_i hb
  have hlt := hinv.position_lt hb
  obtain ⟨hin, h⟩ | ⟨hin, hj, h⟩ | ⟨hin, hj, h⟩ := e.advanceWrap_cases
  · have hi' : (e.seq.i + 1#2).toNat = e.seq.i.toNat + 1 := BitVec.toNat_add_of_lt (by simp; omega)
    rw [h]
    refine .move e.a e.r e.seq.j (e.seq.i + 1#2) hj5 (by omega) ?_
    rw [Engine.stepsLeft_moveTo_wrap hb ho, Engine.stepsLeft_wrap hb ho]
    omega
  · have hj' : (e.seq.j + 1#3).toNat = e.seq.j.toNat + 1 := BitVec.toNat_add_of_lt (by simp; omega)
    have hmul := Nat.mul_le_mul_left e.seq.n.toNat hj
    rw [h]
    refine .move e.a e.r (e.seq.j + 1#3) 0#2 (by omega) (by simpa using hn1) ?_
    rw [Engine.stepsLeft_moveTo_wrap hb ho, Engine.stepsLeft_wrap hb ho]
    simp only [hj', BitVec.toNat_ofNat]
    rw [Nat.mul_succ] at hmul ⊢
    omega
  · rw [h]
    have hj' : e.seq.j.toNat = 5 := by omega
    refine .finish e.a e.r .none _ (fun _ => rfl) ?_ ?_
    · simp only [BitVec.toNat_ofNat]
      omega
    · rw [Engine.stepsLeft_wrap hb ho, hj']
      omega

theorem Engine.unwrapFinish_progress {e : Engine} (hinv : e.Inv) (hb : e.busy = true) (hleft : e.stepsLeft = 1) :
    e.Progress e.unwrapFinish := by
  obtain ⟨hn1, hn4⟩ := hinv.run_n hb
  obtain ⟨-, h⟩ | ⟨-, h⟩ := e.unwrapFinish_cases
  · rw [h]
    refine .finish e.a e.r .none _ (fun _ => rfl) ?_ hleft
    simp only [BitVec.toNat_ofNat]
    omega
  · rw [h]
    exact .finish 0#64 (.replicate 4 0#64) .integrityCheckFailed 0#32 (fun h => absurd rfl h) (by decide) hleft

theorem Engine.advanceUnwrap_progress {e : Engine} (hinv : e.Inv) (hb : e.busy = true) (ho : e.seq.op = .unwrap) :
    e.Progress e.advanceUnwrap := by
  obtain ⟨hn1, hn4⟩ := hinv.run_n hb
  have hj5 := hinv.run_j hb
  have hi := hinv.run_i hb
  have hleft := Engine.stepsLeft_unwrap hb ho
  obtain ⟨hi0, h⟩ | ⟨hi0, hj0, h⟩ | ⟨hi0, hj0, h⟩ := e.advanceUnwrap_cases
  · have hi' : (e.seq.i - 1#2).toNat = e.seq.i.toNat - 1 :=
      BitVec.toNat_sub_of_le (BitVec.le_def.2 hi0)
    rw [h]
    refine .move e.a e.r e.seq.j (e.seq.i - 1#2) hj5 (by omega) ?_
    rw [hleft, Engine.stepsLeft_moveTo_unwrap hb ho]
    omega
  · have hj' : (e.seq.j - 1#3).toNat = e.seq.j.toNat - 1 :=
      BitVec.toNat_sub_of_le (BitVec.le_def.2 hj0)
    have hi' : (BitVec.ofNat 2 (e.seq.n.toNat - 1)).toNat = e.seq.n.toNat - 1 := by
      rw [BitVec.toNat_ofNat]
      omega
    rw [h]
    refine .move e.a e.r (e.seq.j - 1#3) (BitVec.ofNat 2 (e.seq.n.toNat - 1)) (by omega) (by omega) ?_
    rw [hleft, Engine.stepsLeft_moveTo_unwrap hb ho]
    obtain ⟨j, hjs⟩ := Nat.exists_eq_succ_of_ne_zero hj0.ne'
    simp only [hi', hj', hjs, Nat.succ_sub_one, Nat.mul_succ]
    omega
  · rw [h]
    exact Engine.unwrapFinish_progress hinv hb (by rw [hleft, hi0, hj0, Nat.mul_zero])

/-! ### What a step of the machine does to the engine -/

/-- R76: the next turn is the engine's, scheduled or not. -/
def State.EnginesTurn (s : State) : Prop := s.pending = [] ∨ ∃ rest, s.pending = .engine :: rest

/-- R20, R76: everything a step can do to the engine, by the agent that acts. -/
inductive StepEffect (aes : AesPair) (s : State) : Engine → Prop
  | idle (hturn : s.EnginesTurn) (hidle : s.engine.busy = false) : StepEffect aes s s.engine
  | engine {e : Engine} (hturn : s.EnginesTurn) (hbusy : s.engine.busy = true) (he : Engine.step aes s.engine = .ok e) :
      StepEffect aes s e
  | reset {rest : List Event} (hp : s.pending = .reset :: rest) : StepEffect aes s Engine.reset
  | host {w : HostWord} {rest : List Event} {i : Instr} {e : Engine} (hp : s.pending = .host w :: rest)
      (hf : fetch w = .ok i) (he : HostEffect s.engine i e) : StepEffect aes s e

theorem engineTurn_effect {aes : AesPair} {s t : State} {rest : List Event} (hturn : s.EnginesTurn)
    (h : engineTurn aes { s with pending := rest } = .next t) : StepEffect aes s t.engine := by
  obtain ⟨hb, e, he, rfl⟩ | ⟨hb, rfl⟩ := engineTurn_cases h
  · exact .engine hturn hb he
  · exact .idle hturn hb

theorem stepWith_effect {aes : AesPair} {s t : State} (h : stepWith aes s = .next t) : StepEffect aes s t.engine := by
  obtain ⟨hp, h⟩ | ⟨rest, hp, h⟩ | ⟨rest, hp, rfl⟩ | ⟨w, rest, i, hp, hf, h⟩ := stepWith_cases h
  · exact engineTurn_effect (rest := s.pending) (.inl hp) h
  · exact engineTurn_effect (.inr ⟨rest, hp⟩) h
  · exact .reset hp
  · exact .host hp hf (exec_hostEffect (s := { s with pending := rest }) h)

/-! ### The invariant (R34 to R43) -/

/-- R240: no code is above 5. -/
theorem ErrCode.bits_le (c : ErrCode) : c.bits.toNat ≤ 5 := by cases c <;> decide

/-- An idle engine meets the invariant by its outcome alone. -/
theorem Engine.inv_of_idle {e : Engine} (hseq : e.seq = Seq.idle) (herr : e.err.toNat ≤ 5)
    (hout : e.outLen ≠ 0#32 → e.err = 0#4) (hlen : e.outLen.toNat % 8 = 0 ∧ e.outLen.toNat ≤ 40) : e.Inv := by
  have hb : ¬ e.busy = true := by simp [Engine.busy, hseq, Seq.idle]
  exact {
    err_le := herr
    idle_seq := fun _ => hseq
    run_n := fun h => absurd h hb
    run_j := fun h => absurd h hb
    run_i := fun h => absurd h hb
    run_kek := fun h => absurd h hb
    run_data := fun h => absurd h hb
    run_clear := fun h => absurd h hb
    out_err := hout
    out_len := hlen }

theorem Engine.inv_reset : Engine.reset.Inv :=
  Engine.inv_of_idle rfl (by decide) (fun h => absurd rfl h) (by decide)

/-- R145: completion establishes the invariant. -/
theorem Engine.inv_complete (e : Engine) {c : ErrCode} {l : Word} (hl : l ≠ 0#32 → c = .none)
    (hlen : l.toNat % 8 = 0 ∧ l.toNat ≤ 40) : (e.complete c l).Inv :=
  Engine.inv_of_idle rfl c.bits_le (fun h => congrArg ErrCode.bits (hl h)) hlen

/-- The invariant depends on SEQ, ERR and OUT_LEN, and while BUSY = 1 on the lengths and DONE. -/
theorem Engine.Inv.of_frame {e e' : Engine} (hinv : e.Inv) (hseq : e'.seq = e.seq) (herr : e'.err = e.err)
    (hout : e'.outLen = e.outLen)
    (hrun : e.busy = true → e'.kekLen = e.kekLen ∧ e'.dataLen = e.dataLen ∧ (e.done = false → e'.done = false)) :
    e'.Inv := by
  have hb : e'.busy = e.busy := Engine.busy_congr hseq
  constructor
  all_goals simp only [hb, hseq, herr, hout]
  case err_le => exact hinv.err_le
  case idle_seq => exact hinv.idle_seq
  case run_n => exact hinv.run_n
  case run_j => exact hinv.run_j
  case run_i => exact hinv.run_i
  case run_kek =>
    intro hbusy
    obtain ⟨hkl, -, -⟩ := hrun hbusy
    exact hkl ▸ hinv.run_kek hbusy
  case run_data =>
    intro hbusy
    obtain ⟨-, hdl, -⟩ := hrun hbusy
    exact hdl ▸ hinv.run_data hbusy
  case run_clear =>
    intro hbusy
    obtain ⟨-, -, hdone⟩ := hrun hbusy
    exact (hinv.run_clear hbusy).imp_left hdone
  case out_err => exact hinv.out_err
  case out_len => exact hinv.out_len

/-- R182, R202: acceptance establishes the invariant. -/
theorem Engine.inv_start (e : Engine) {op : Op} {n : Nat} {j : BitVec 3} {i : BitVec 2}
    (hacc : AcceptedChunks e.kekLen n) (hdata : e.dataLen.toNat = op.dataBytes n) (hj : j.toNat ≤ 5)
    (hi : i.toNat + 1 ≤ n) : (e.start op n j i).Inv := by
  obtain ⟨hn1, hkek⟩ := hacc
  have hn : (BitVec.ofNat 3 n).toNat = n := by rw [BitVec.toNat_ofNat]; omega
  constructor
  case err_le => simp
  case idle_seq => simp
  case run_n => simp only [Engine.start_seq, hn]; omega
  case run_j => exact fun _ => hj
  case run_i => simpa only [Engine.start_seq, hn] using fun _ => hi
  case run_kek => simp only [Engine.start_kekLen]; omega
  case run_data =>
    intro _
    cases op <;> simpa only [Engine.start_seq, Engine.start_dataLen, hn, Op.dataBytes] using hdata
  case run_clear => simp
  case out_err => simp
  case out_len => simp

theorem Engine.inv_accept {e : Engine} {op : Op} {n : Nat}
    (hv : validate op e.kekLen e.dataLen = (.none, n)) : (e.accept op n).Inv := by
  obtain ⟨hacc, hdata⟩ := (validate_eq_none_iff op e.kekLen e.dataLen n).1 hv
  have hn := hacc.1
  cases op with
  | wrap => exact Engine.inv_start { e with a := icv } hacc hdata (by decide) hn
  | unwrap =>
    refine Engine.inv_start e hacc hdata (by decide) ?_
    rw [BitVec.toNat_ofNat]
    omega

/-- The values of A and R decide nothing of what a step does to the rest. -/
theorem Engine.Progress.of_chunks {e e' : Engine} {a : Chunk} {r : Vector Chunk 4}
    (h : { e with a := a, r := r }.Progress e') : e.Progress e' := by
  cases h with
  | move a r j i hj hi hleft => exact .move a r j i hj hi hleft
  | finish a r c l hl hlen hleft => exact .finish a r c l hl hlen hleft

theorem Engine.step_progress {aes : AesPair} {e e' : Engine} (hinv : e.Inv) (hb : e.busy = true)
    (h : Engine.step aes e = .ok e') : e.Progress e' := by
  have hchunks (a : Chunk) (r : Vector Chunk 4) : { e with a := a, r := r }.Inv :=
    hinv.of_frame rfl rfl rfl fun _ => ⟨rfl, rfl, id⟩
  obtain ⟨key, -, ⟨ho, rfl⟩ | ⟨ho, rfl⟩⟩ := Engine.step_cases h
  · exact (Engine.advanceWrap_progress (e := e.wrapChain aes key) (hchunks _ _) hb ho).of_chunks
  · exact (Engine.advanceUnwrap_progress (e := e.unwrapChain aes key) (hchunks _ _) hb ho).of_chunks

/-- R43: a move of the sequencer stays in the ranges of R43. -/
theorem Engine.Progress.inv {e e' : Engine} (hinv : e.Inv) (hb : e.busy = true) (h : e.Progress e') : e'.Inv := by
  cases h with
  | move a r j i hj hi _ =>
    exact {
      err_le := hinv.err_le
      idle_seq := fun h => absurd (hb.symm.trans h) (by decide)
      run_n := hinv.run_n
      run_j := fun _ => hj
      run_i := fun _ => hi
      run_kek := hinv.run_kek
      run_data := hinv.run_data
      run_clear := hinv.run_clear
      out_err := hinv.out_err
      out_len := hinv.out_len }
  | finish a r c l hl hlen _ => exact Engine.inv_complete _ hl hlen

theorem HostEffect.inv {e e' : Engine} {i : Instr} (hinv : e.Inv) (h : HostEffect e i e') : e'.Inv := by
  cases h with
  | same => exact hinv
  | dropped | ctrl => exact hinv.of_frame rfl rfl rfl fun _ => ⟨rfl, rfl, id⟩
  | status v => exact hinv.of_frame rfl rfl rfl fun _ => ⟨rfl, rfl, fun hd => by simp [hd]⟩
  | kekLen v hidle | dataLen v hidle => exact hinv.of_frame rfl rfl rfl fun hb => by simp [hidle] at hb
  | kek k v hidle | data w v hidle => exact hinv.of_frame (by simp) (by simp) (by simp) fun hb => by simp [hidle] at hb
  | cleared => exact Engine.inv_complete _ (fun _ => rfl) (by decide)
  | rejected code => exact e.inv_complete (fun h => absurd rfl h) (by decide)
  | accepted op n _ _ hv => exact Engine.inv_accept hv

theorem StepEffect.inv {aes : AesPair} {s : State} {e : Engine} (hinv : s.engine.Inv) (h : StepEffect aes s e) :
    e.Inv := by
  cases h with
  | idle => exact hinv
  | engine _ hb he => exact (Engine.step_progress hinv hb he).inv hinv hb
  | reset => exact Engine.inv_reset
  | host _ _ he => exact he.inv hinv

/-- Settles O44: reset and completion establish the invariant, acceptance establishes R43, and a move of the sequencer
and every other host transaction keep it. -/
theorem everyStepKeepsTheInvariant : Obligations.EveryStepKeepsTheInvariant :=
  fun _ _ hinv h => (stepWith_effect h).inv hinv

/-- Settles O43: the reset engine is idle, with no code and no output. -/
theorem resetMeetsTheInvariant : Obligations.ResetMeetsTheInvariant := Engine.inv_reset

/-! ### Turns that cannot fail -/

/-- R43: an engine step of a running state has its key. -/
theorem Engine.Inv.step_ok {e : Engine} (aes : AesPair) (hinv : e.Inv) (hb : e.busy = true) :
    ∃ e', Engine.step aes e = .ok e' := by
  obtain ⟨key, hk⟩ := e.aesKey_isSome.2 (hinv.run_kek hb)
  cases ho : e.seq.op with
  | wrap => exact ⟨_, Engine.step_of_wrap hk ho⟩
  | unwrap => exact ⟨_, Engine.step_of_unwrap hk ho⟩

theorem engineTurn_next (aes : AesPair) {s : State} (hinv : s.engine.Inv) : ∃ t, engineTurn aes s = .next t := by
  cases hb : s.engine.busy with
  | false => exact ⟨s, engineTurn_of_idle hb⟩
  | true =>
    obtain ⟨e, he⟩ := hinv.step_ok aes hb
    exact ⟨_, engineTurn_of_step hb he⟩

theorem stepWith_nil {aes : AesPair} {s : State} (hp : s.pending = []) : stepWith aes s = engineTurn aes s := by
  simp only [stepWith, hp]

theorem stepWith_cons {aes : AesPair} {s : State} {ev : Event} {rest : List Event} (hp : s.pending = ev :: rest) :
    stepWith aes s = runEvent aes { s with pending := rest } ev := by
  simp only [stepWith, hp]

theorem runEvent_host_ok {aes : AesPair} {s : State} {w : HostWord} {i : Instr} (hf : fetch w = .ok i) :
    runEvent aes s (.host w) = exec i s := by
  simp only [runEvent, hf]

theorem runEvent_host_error {aes : AesPair} {s : State} {w : HostWord} {r : Refusal} (hf : fetch w = .error r) :
    runEvent aes s (.host w) = .refused r := by
  simp only [runEvent, hf]

/-- R102: every command word is fetched. -/
theorem fetch_cmd (v : Word) : ∃ i, fetch (.cmd v) = .ok i := by
  simp only [fetch, decodeWord, decodeCommandWord]
  cases decodeCmd v <;> simp

/-- R105: only an ill-formed HTW is refused, by one of the two names. -/
theorem fetch_error {w : HostWord} {r : Refusal} (h : fetch w = .error r) :
    w.wellFormed = false ∧ (r = .reservedHtwBits ∨ r = .readWithData) := by
  cases w with
  | cmd v =>
    obtain ⟨i, hi⟩ := fetch_cmd v
    simp [hi] at h
  | htw w =>
    simp only [fetch, decodeWord, decodeHtw] at h
    split_ifs at h with hres hread hw
    · cases h
      exact ⟨by simp [HostWord.wellFormed, HostWord.reservedZero, hres], .inl rfl⟩
    · cases h
      obtain ⟨hr, hdata⟩ := hread
      refine ⟨?_, .inr rfl⟩
      simp only [HostWord.wellFormed, HostWord.readDataZero, hr, beq_false_of_ne hdata, Bool.or_false, Bool.and_false]

/-- Settles O45: the invariant gives every engine step its key, every transaction is answered, and only an ill-formed
word is not a transaction. -/
theorem onlyIllFormedWordsStopTheMachine : Obligations.OnlyIllFormedWordsStopTheMachine := by
  intro s hinv
  unfold step
  cases hp : s.pending with
  | nil => exact .inl (stepWith_nil hp ▸ engineTurn_next _ hinv)
  | cons ev rest =>
    rw [stepWith_cons hp]
    cases ev with
    | reset => exact .inl ⟨_, rfl⟩
    | engine => exact .inl (engineTurn_next (s := { s with pending := rest }) _ hinv)
    | host w =>
      cases hf : fetch w with
      | ok i =>
        obtain ⟨t, ht, -⟩ := exec_next i { s with pending := rest }
        exact .inl ⟨t, (runEvent_host_ok hf).trans ht⟩
      | error r =>
        obtain ⟨hw, hr⟩ := fetch_error hf
        rw [runEvent_host_error hf]
        exact .inr ⟨w, rest, rfl, hw, hr.imp (congrArg _) (congrArg _)⟩

/-- Settles O7: the queue's head names the agent. -/
theorem eachStepIsOneAgentsAction : Obligations.EachStepIsOneAgentsAction := by
  intro s rest
  unfold step
  refine ⟨fun hp => stepWith_cons hp, fun w hp => ⟨fun i hf => ?_, fun r hf => ?_⟩, fun hp hb => ?_, fun hp hb => ?_,
    fun hp hb t ht => ?_⟩
  · obtain ⟨t, ht, hrest⟩ := exec_next i { s with pending := rest }
    exact ⟨t, (stepWith_cons hp).trans ((runEvent_host_ok hf).trans ht), ht, hrest⟩
  · exact (stepWith_cons hp).trans (runEvent_host_error hf)
  · exact (stepWith_cons hp).trans (engineTurn_of_idle (s := { s with pending := rest }) hb)
  · exact (stepWith_nil hp).trans (engineTurn_of_idle hb)
  · rw [stepWith_nil rfl] at ht
    obtain ⟨-, e, he, rfl⟩ | ⟨hb', -⟩ := engineTurn_cases ht
    · exact (stepWith_cons hp).trans (engineTurn_of_step (s := { s with pending := rest }) hb he)
    · exact absurd (hb.symm.trans hb') (by decide)

/-! ### The interrupt and reset -/

theorem memWrite_status (e : Engine) (v : Word) : e.memWrite 0x00C#12 v = e.statusWrite v := rfl

theorem memWrite_ctrl (e : Engine) (v : Word) : e.memWrite 0x004#12 v = e.ctrlWrite v := rfl

/-- Settles O41: irq reads DONE and IRQ_EN only, and each of the two writes sets one of them. -/
theorem interruptIsDoneAndEnabled : Obligations.InterruptIsDoneAndEnabled := by
  intro s t v
  refine ⟨rfl, fun h hv => ?_, fun h hv => ?_, fun h => ?_, fun hinv hb => ?_⟩
  · cases h
    simp only [State.respond_engine, memWrite_status, Engine.irq, Engine.statusWrite_done, hv, Bool.not_true,
      Bool.and_false, Bool.false_and]
  · cases h
    simp only [State.respond_engine, memWrite_status, Engine.irq, Engine.statusWrite_done, Engine.statusWrite_irqEn, hv,
      Bool.not_false, Bool.and_true]
  · cases h
    simp [memWrite_ctrl, Engine.irq]
  · obtain ⟨hdone, -, -⟩ := hinv.run_clear hb
    simp [Engine.irq, hdone]

/-- Settles O42: a reset action writes the reset value of every element. -/
theorem resetSetsEveryElement : Obligations.ResetSetsEveryElement :=
  ⟨fun _ _ hp => ⟨_, stepWith_cons hp, rfl⟩, rfl, fun i => Vector.getElem_replicate i.isLt,
    fun b => Vector.getElem_replicate b.isLt, rfl, rfl, rfl, rfl, rfl, rfl, rfl, rfl, rfl, rfl, rfl⟩

/-! ### What a read depends on -/

/-- R73: no read of a register depends on KEK. -/
theorem Engine.memRead_setKek (e : Engine) (kek : Vector Byte 32) (off : Offset) :
    { e with kek := kek }.memRead off = e.memRead off := by
  have hreg (x : WindowReg) : { e with kek := kek }.readReg x = e.readReg x := by cases x <;> rfl
  simp only [Engine.memRead, hreg]

/-- R74: while BUSY = 1, no read depends on A, R or the sequencer's position. -/
theorem Engine.memRead_of_busy {e : Engine} (hb : e.busy = true) (a : Chunk) (r : Vector Chunk 4) {seq : Seq}
    (hrun : seq.phase = .run) (off : Offset) :
    { e with a := a, r := r, seq := seq }.memRead off = e.memRead off := by
  have hb' : { e with a := a, r := r, seq := seq }.busy = true := (Engine.busy_iff _).2 hrun
  have hreg (x : WindowReg) : { e with a := a, r := r, seq := seq }.readReg x = e.readReg x := by
    cases x with
    | status => simp only [Engine.readReg, Engine.statusWord, hb, hb']
    | data w => simp only [Engine.readReg, hb, hb', if_true]
    | id | ctrl | cmd | kekLen | dataLen | outLen | kek | reserved => rfl
  simp only [Engine.memRead, hreg]

/-- Settles O13: a read returns MemRead of the engine, which KEK and a running command's progress leave as it is. -/
theorem readsRevealNoKekAndNoPartialState : Obligations.ReadsRevealNoKekAndNoPartialState := by
  intro s off kek a r seq pending reply
  refine ⟨s.engine.memRead off, rfl, ?_, fun hb hrun => ?_⟩
  · rw [exec_rd_engine, Engine.memRead_setKek]
    rfl
  · rw [exec_rd_engine, Engine.memRead_of_busy hb a r hrun]
    rfl

/-! ### What each element can become in one step -/

/-- A fetched instruction is the decoder's unless it is the CMD write of an ILLEGAL word. -/
theorem decodeWord_of_fetch {w : HostWord} {i : Instr} (hf : fetch w = .ok i)
    (hi : ∀ v, decodeCmd v = .illegal → i ≠ .wr 0x008#12 v) : decodeWord w = .ok i := by
  obtain h | ⟨v, -, hv, rfl⟩ := fetch_cases hf
  · exact h
  · exact absurd rfl (hi v hv)

theorem Issues.decodeWord {w : HostWord} {i : Instr} {c : Command} (hi : Issues i c) (hc : c ≠ .illegal)
    (hf : fetch w = .ok i) : decodeWord w = .ok i := by
  refine decodeWord_of_fetch hf fun v hv heq => ?_
  subst heq
  cases hi with
  | wr h => exact hc (h.symm.trans hv)

section
variable {e e' : Engine} {i : Instr}

/-- R34: a host transaction changes BUSY only by acceptance. -/
theorem HostEffect.busy_cases (h : HostEffect e i e') :
    e'.busy = e.busy ∨
      e.busy = false ∧ ∃ op n, Issues i op.command ∧ validate op e.kekLen e.dataLen = (.none, n) := by
  cases h with
  | same | dropped | ctrl | status | kekLen | dataLen => exact .inl rfl
  | kek | data => exact .inl (by simp)
  | cleared hidle | rejected _ hidle => exact .inl (by simp [hidle])
  | accepted op n hidle hi hv => exact .inr ⟨hidle, op, n, hi, hv⟩

/-- R35, R37, R40: a host transaction changes the outcome only by a STATUS write, an acceptance or a completion. -/
theorem HostEffect.outcome_cases (h : HostEffect e i e') :
    (e'.err = e.err ∧ e'.outLen = e.outLen ∧
      (e'.done = e.done ∨ e'.done = false ∧ ∃ v, i = .wr 0x00C#12 v ∧ v.getLsbD 1 = true)) ∨
    (e.busy = false ∧ e'.busy = true ∧ e'.done = false ∧ e'.err = 0#4 ∧ e'.outLen = 0#32) ∨
    (e.busy = false ∧ e'.busy = false ∧ e'.done = true ∧ e'.outLen = 0#32 ∧ ∃ c, Issues i c ∧ c ≠ .nop) := by
  cases h with
  | same | dropped | ctrl | kekLen | dataLen => exact .inl ⟨rfl, rfl, .inl rfl⟩
  | kek | data => exact .inl (by simp)
  | status v =>
    refine .inl ⟨rfl, rfl, ?_⟩
    cases hv : v.getLsbD 1 with
    | false => exact .inl (by simp only [Engine.statusWrite_done, hv, Bool.not_false, Bool.and_true])
    | true => exact .inr ⟨by simp only [Engine.statusWrite_done, hv, Bool.not_true, Bool.and_false], v, rfl, hv⟩
  | cleared hidle hi => exact .inr (.inr ⟨hidle, rfl, rfl, rfl, .clear, hi, by decide⟩)
  | rejected code hidle hi hc => exact .inr (.inr ⟨hidle, rfl, rfl, rfl, _, hi, hc⟩)
  | accepted op n hidle => exact .inr (.inl ⟨hidle, by simp⟩)

/-- R36: a host transaction changes DROP only by being dropped or by a STATUS write. -/
theorem HostEffect.drop_cases (h : HostEffect e i e') :
    e'.drop = e.drop ∨ (e.busy = true ∧ HeldOff i ∧ e'.drop = true) ∨
      ∃ v, i = .wr 0x00C#12 v ∧ e'.drop = (e.drop && !v.getLsbD 2) := by
  cases h with
  | same | ctrl | kekLen | dataLen => exact .inl rfl
  | kek | data | cleared | rejected | accepted => exact .inl (by simp)
  | dropped hb hi => exact .inr (.inl ⟨hb, hi, rfl⟩)
  | status v => exact .inr (.inr ⟨v, rfl, rfl⟩)

/-- R29, R38, R39: a host transaction changes the key and the lengths only by CLEAR or by a write to one of them. -/
theorem HostEffect.operand_cases (h : HostEffect e i e') :
    (e'.kek = e.kek ∧ e'.kekLen = e.kekLen ∧ e'.dataLen = e.dataLen) ∨
    e.busy = false ∧ (Issues i .clear ∨ ∃ off v, i = .wr off v ∧
      (off.toNat = 0x010 ∧ e'.kek = e.kek ∧ e'.dataLen = e.dataLen ∨
       off.toNat = 0x014 ∧ e'.kek = e.kek ∧ e'.kekLen = e.kekLen ∨
       (0x020 ≤ off.toNat ∧ off.toNat ≤ 0x03C) ∧ e'.kekLen = e.kekLen ∧ e'.dataLen = e.dataLen)) := by
  cases h with
  | same | dropped | ctrl | status => exact .inl ⟨rfl, rfl, rfl⟩
  | data | rejected | accepted => exact .inl (by simp)
  | kekLen v hidle => exact .inr ⟨hidle, .inr ⟨_, v, rfl, .inl ⟨rfl, rfl, rfl⟩⟩⟩
  | dataLen v hidle => exact .inr ⟨hidle, .inr ⟨_, v, rfl, .inr (.inl ⟨rfl, rfl, rfl⟩)⟩⟩
  | kek k v hidle =>
    refine .inr ⟨hidle, .inr ⟨_, v, rfl, .inr (.inr ⟨?_, by simp⟩)⟩⟩
    have hk := k.isLt
    rw [toNat_kek_offset]
    omega
  | cleared hidle hi => exact .inr ⟨hidle, .inl hi⟩
end

/-- Settles O46: a host transaction raises BUSY by acceptance only, and the last engine step or reset drops it. -/
theorem busyChangesOnlyAtAcceptanceAndCompletion : Obligations.BusyChangesOnlyAtAcceptanceAndCompletion := by
  intro s t hinv h
  have heff := stepWith_effect h
  generalize t.engine = e at heff ⊢
  refine ⟨s.engine.busy_iff, fun hs he => ?_, fun hs he => ?_⟩
  · cases heff with
    | idle => simp [hs] at he
    | engine _ hb => simp [hs] at hb
    | reset => cases he
    | @host w rest i _ hp hf heff =>
      obtain hb | ⟨-, op, n, hi, hv⟩ := heff.busy_cases
      · simp [hs, he] at hb
      obtain ⟨hacc, hdata⟩ := (validate_eq_none_iff ..).1 hv
      refine ⟨w, rest, i, n, hp, hi.decodeWord (by cases op <;> decide) hf, hacc, ?_⟩
      cases op with
      | wrap => exact .inl ⟨by simpa [Op.command] using hi.cases, hdata⟩
      | unwrap => exact .inr ⟨by simpa [Op.command] using hi.cases, hdata⟩
  · cases heff with
    | idle => simp [hs] at he
    | engine hturn hb hstep =>
      cases Engine.step_progress hinv hb hstep with
      | move => exact absurd (hs.symm.trans he) (by decide)
      | finish _ _ _ _ _ _ hleft => exact .inr ⟨hturn, hleft, rfl⟩
    | @reset rest hp => exact .inl ⟨rest, hp⟩
    | host _ _ heff =>
      obtain hb | ⟨hb, -⟩ := heff.busy_cases
      · simp [hs, he] at hb
      · simp [hs] at hb

/-- Settles O47: a turn that keeps the outcome, an acceptance, a completion and reset are all a step can be. -/
theorem outcomeChangesOnlyAtCompletionAndAcceptance : Obligations.OutcomeChangesOnlyAtCompletionAndAcceptance := by
  intro s t hinv h
  have heff := stepWith_effect h
  generalize t.engine = e at heff ⊢
  cases heff with
  | idle => exact .inl ⟨rfl, rfl, .inl rfl⟩
  | engine _ hb hstep =>
    cases Engine.step_progress hinv hb hstep with
    | move => exact .inl ⟨rfl, rfl, .inl rfl⟩
    | finish a r c l hl _ hleft =>
      exact .inr (.inr (.inr ⟨rfl, rfl, fun h => congrArg ErrCode.bits (hl h), .inl ⟨hb, hleft⟩⟩))
  | @reset rest hp => exact .inr (.inl ⟨rest, hp⟩)
  | @host w rest i _ hp hf heff =>
    obtain ⟨herr, hout, hdone⟩ | hacc | ⟨hs, he, hdone, hout, c, hi, hc⟩ := heff.outcome_cases
    · refine .inl ⟨herr, hout, hdone.imp_right ?_⟩
      rintro ⟨hd, v, rfl, hv⟩
      exact ⟨hd, w, rest, v, hp, decodeWord_of_fetch hf (by simp), hv⟩
    · exact .inr (.inr (.inl hacc))
    · refine .inr (.inr (.inr ⟨he, hdone, fun h => absurd hout h, .inr ⟨hs, w, rest, i, hp, hf, ?_⟩⟩))
      obtain ⟨rfl, -⟩ | ⟨-, hi⟩ | ⟨-, hi⟩ | ⟨-, hi⟩ | ⟨-, v, hi⟩ := hi.cases
      · exact absurd rfl hc
      · exact hi.imp_right fun h => .inr (.inr ⟨_, h⟩)
      · exact .inr (hi.imp_right fun h => .inr ⟨_, h⟩)
      · exact .inr (.inr (hi.imp_right fun h => ⟨_, h⟩))
      · exact .inr (.inr (.inr ⟨v, hi⟩))

/-- R75, R141: the transactions held off, as a list. -/
theorem HeldOff.cases {i : Instr} (h : HeldOff i) :
    i = .nop ∨ i = .wrap ∨ i = .unwrap ∨ i = .clear ∨ ∃ off v, i = .wr off v ∧ off.toNat % 4 = 0 ∧
      (off.toNat = 0x008 ∨ off.toNat = 0x010 ∨ off.toNat = 0x014 ∨ 0x020 ≤ off.toNat ∧ off.toNat ≤ 0x064) := by
  cases i with
  | rd => exact h.elim
  | wr off v => exact .inr (.inr (.inr (.inr ⟨off, v, rfl, h⟩)))
  | nop | wrap | unwrap | clear => simp

/-- Settles O48: of the actions that change DROP, a dropped write sets it, and a STATUS write or reset clears it. -/
theorem dropChangesOnlyByDroppedWriteAndAck : Obligations.DropChangesOnlyByDroppedWriteAndAck := by
  intro s t h
  have heff := stepWith_effect h
  generalize t.engine = e at heff ⊢
  by_cases hsame : e.drop = s.engine.drop
  · exact ⟨fun hs he => by simp [hsame, hs] at he, fun hs he => by simp [hsame, hs] at he⟩
  cases heff with
  | idle => exact absurd rfl hsame
  | engine _ _ hstep =>
    obtain ⟨-, -, -, hdrop, -⟩ := Engine.step_frame hstep
    exact absurd hdrop hsame
  | @reset rest hp => exact ⟨fun _ he => (nomatch he), fun _ _ => .inl ⟨rest, hp⟩⟩
  | @host w rest i _ hp hf heff =>
    obtain hd | ⟨hb, hi, hd⟩ | ⟨v, rfl, hd⟩ := heff.drop_cases
    · exact absurd hd hsame
    · exact ⟨fun _ _ => ⟨hb, w, rest, i, hp, hf, hi.cases⟩, fun _ he => by simp [hd] at he⟩
    · refine ⟨fun hs he => by simp [hd, hs] at he, fun hs he => .inr ⟨w, rest, v, hp, ?_, ?_⟩⟩
      · exact decodeWord_of_fetch hf (by simp)
      · simpa [hd, hs] using he

/-- Settles O49: an engine step keeps the operands, and a host transaction changes them by CLEAR or a write to one. -/
theorem onlyTheHostChangesKekAndLengths : Obligations.OnlyTheHostChangesKekAndLengths := by
  intro s t h
  have heff := stepWith_effect h
  generalize t.engine = e at heff ⊢
  cases heff with
  | idle => exact .inl ⟨rfl, rfl, rfl⟩
  | engine _ _ hstep =>
    obtain ⟨hkek, hkl, hdl, -, -⟩ := Engine.step_frame hstep
    exact .inl ⟨hkek.symm, hkl.symm, hdl.symm⟩
  | @reset rest hp => exact .inr (.inl ⟨rest, hp⟩)
  | @host w rest i _ hp hf heff =>
    obtain ⟨hkek, hkl, hdl⟩ | ⟨hb, hi | ⟨off, v, rfl, hoff⟩⟩ := heff.operand_cases
    · exact .inl ⟨hkek.symm, hkl.symm, hdl.symm⟩
    · refine .inr (.inr ⟨hb, w, rest, i, hp, hi.decodeWord (by decide) hf, ?_⟩)
      have hclear : i = .clear ∨ i = .wr 0x008#12 3#32 := by simpa using hi.cases
      exact hclear.imp_right .inl
    · refine .inr (.inr ⟨hb, w, rest, _, hp, decodeWord_of_fetch hf ?_, .inr (.inr ⟨off, v, rfl, ?_⟩)⟩)
      · rintro v' - ⟨rfl⟩
        simp at hoff
      · exact hoff.imp (fun ⟨h, hk, hd⟩ => ⟨h, hk.symm, hd.symm⟩)
          (.imp (fun ⟨h, hk, hl⟩ => ⟨h, hk.symm, hl.symm⟩)
            fun ⟨⟨hlo, hhi⟩, hl, hd⟩ => ⟨hlo, hhi, hl.symm, hd.symm⟩)

/-! ### A running command and its end (R45, R76) -/

/-- A running state of the invariant with so many engine steps to go. -/
structure Engine.Running (e : Engine) (left : Nat) : Prop where
  inv : e.Inv
  busy : e.busy = true
  stepsLeft : e.stepsLeft = left

/-- R45: a position that R43 allows is between 1 and 24 steps from the end. -/
theorem Engine.Inv.stepsLeft_bounds {e : Engine} (hinv : e.Inv) (hb : e.busy = true) :
    1 ≤ e.stepsLeft ∧ e.stepsLeft ≤ 24 := by
  have hlt := hinv.position_lt hb
  obtain ⟨-, hn4⟩ := hinv.run_n hb
  cases ho : e.seq.op with
  | wrap =>
    rw [Engine.stepsLeft_wrap hb ho]
    omega
  | unwrap =>
    rw [Engine.stepsLeft_unwrap hb ho]
    omega

/-- A step that is not the last leaves one step fewer. -/
theorem Engine.Running.step {e : Engine} {left : Nat} (aes : AesPair) (h : e.Running (left + 2)) :
    ∃ e', Engine.step aes e = .ok e' ∧ e'.Running (left + 1) := by
  obtain ⟨hinv, hb, hleft⟩ := h
  obtain ⟨e', he⟩ := hinv.step_ok aes hb
  have hprog := Engine.step_progress hinv hb he
  have hinv' := hprog.inv hinv hb
  cases hprog with
  | move a r j i _ _ hmove => exact ⟨_, he, hinv', hb, Nat.succ_injective (hmove.trans hleft)⟩
  | finish _ _ _ _ _ _ hlast => omega

/-- The last step completes the command. -/
theorem Engine.Running.step_last {e : Engine} (aes : AesPair) (h : e.Running 1) :
    ∃ e', Engine.step aes e = .ok e' ∧ e'.busy = false ∧ e'.done = true := by
  obtain ⟨hinv, hb, hleft⟩ := h
  obtain ⟨e', he⟩ := hinv.step_ok aes hb
  have hprog := Engine.step_progress hinv hb he
  have hinv' := hprog.inv hinv hb
  cases hprog with
  | move a r j i _ _ hmove =>
    have hpos : 1 ≤ (e.moveTo j i).stepsLeft := (hinv'.stepsLeft_bounds hb).1
    omega
  | finish => exact ⟨_, he, rfl, rfl⟩

theorem stepWith_of_step {aes : AesPair} {s : State} {e : Engine} (hp : s.pending = []) (hb : s.engine.busy = true)
    (he : Engine.step aes s.engine = .ok e) : stepWith aes s = .next { s with engine := e } :=
  (stepWith_nil hp).trans (engineTurn_of_step hb he)

/-- R76: with nothing outstanding, fewer turns than steps left are engine steps, and leave the command running. -/
theorem Engine.Running.runWith {aes : AesPair} {k left : Nat} {s : State} (hp : s.pending = [])
    (h : s.engine.Running (k + left + 1)) :
    ∃ e, runWith aes k s = .next { s with engine := e } ∧ e.Running (left + 1) := by
  induction k generalizing s with
  | zero => exact ⟨s.engine, rfl, by simpa using h⟩
  | succ k ih =>
    rw [show k + 1 + left + 1 = k + left + 2 by omega] at h
    obtain ⟨e, he, hrun⟩ := h.step aes
    rw [runWith_succ aes k s _ (stepWith_of_step hp h.busy he)]
    exact ih (s := { s with engine := e }) hp hrun

/-- Settles O51: each step but the last leaves one step fewer, and the last one completes. -/
theorem runningCommandCompletesInItsSteps : Obligations.RunningCommandCompletesInItsSteps := by
  intro aes s hinv hp hb
  obtain ⟨hpos, hle⟩ := Engine.Inv.stepsLeft_bounds hinv hb
  refine ⟨hpos, hle, fun k hk => ?_, ?_⟩
  · obtain ⟨left, hleft⟩ := Nat.exists_eq_add_of_lt hk
    obtain ⟨e, hrun, he⟩ := Engine.Running.runWith (aes := aes) hp ⟨hinv, hb, hleft⟩
    exact ⟨_, hrun, he.busy⟩
  · obtain ⟨k, hk⟩ := Nat.exists_eq_add_of_le' hpos
    obtain ⟨e, hrun, he⟩ := Engine.Running.runWith (aes := aes) (left := 0) hp ⟨hinv, hb, hk⟩
    obtain ⟨e', hlast, hidle, hdone⟩ := he.step_last aes
    rw [hk, runWith_add hrun, runWith_succ aes 0 _ _ (stepWith_of_step (s := { s with engine := e }) hp he.busy hlast)]
    exact ⟨_, rfl, hidle, hdone⟩

/-! ### The loop of `wait_idle` (R77, R110) -/

section
variable {aes : AesPair} {h : HostRun} {rest : List Line}

/-- One read of the loop: the engine as it was, and the loop left exactly when BUSY = 0. -/
theorem HostRun.turn_untilIdle (hl : h.lines = .untilIdle :: rest) :
    ∃ g, h.turn aes .host = .next g ∧ g.state.engine = h.state.engine ∧
      g.lines = if h.state.engine.busy then .untilIdle :: rest else rest := by
  have hread : runEvent aes h.state (.host (encode Line.untilIdle.transaction)) =
      .next (h.state.respond h.state.engine (h.state.engine.memRead 0x00C#12)) := runEvent_host_ok fetch_untilIdle
  simp only [HostRun.turn, hl, hread, mapNext_next]
  refine ⟨_, rfl, rfl, ?_⟩
  rw [State.respond_reply, ended_untilIdle]
  cases h.state.engine.busy <;> rfl

theorem HostRun.turn_engine {e : Engine} (hb : h.state.engine.busy = true)
    (he : Engine.step aes h.state.engine = .ok e) :
    h.turn aes .engine = .next { h with state := { h.state with engine := e } } := by
  simp only [HostRun.turn, engineTurn_of_step hb he, mapNext_next]

theorem HostRun.run_cons {q : List Agent} {agent : Agent} {g : HostRun} (ht : h.turn aes agent = .next g) :
    h.run aes (agent :: q) = g.run aes q := by
  simp only [HostRun.run, ht]

/-- R77: under a schedule with fewer engine turns than steps left, the host stays at the loop and the engine is what
those steps alone make it. -/
theorem HostRun.run_untilIdle {q : List Agent} {left : Nat} {u : State} (hl : h.lines = .untilIdle :: rest)
    (hq : .reset ∉ q) (hp : u.pending = []) (hu : h.state.engine = u.engine)
    (hrun : u.engine.Running (q.count .engine + left + 1)) :
    ∃ g e, h.run aes q = .next g ∧ runWith aes (q.count .engine) u = .next { u with engine := e } ∧
      g.lines = .untilIdle :: rest ∧ g.state.engine = e ∧ e.Running (left + 1) := by
  induction q generalizing h u with
  | nil => exact ⟨h, u.engine, rfl, rfl, hl, hu, by simpa using hrun⟩
  | cons agent q ih =>
    have hq' : .reset ∉ q := fun hmem => hq (.tail agent hmem)
    cases agent with
    | reset => exact absurd (.head q) hq
    | host =>
      obtain ⟨g, ht, hge, hgl⟩ := HostRun.turn_untilIdle (aes := aes) hl
      rw [hu, hrun.busy, if_pos rfl] at hgl
      rw [HostRun.run_cons ht]
      exact ih hgl hq' hp (hge.trans hu) hrun
    | engine =>
      rw [List.count_cons_self] at hrun ⊢
      rw [show q.count .engine + 1 + left + 1 = q.count .engine + left + 2 by omega] at hrun
      obtain ⟨e, he, hnext⟩ := hrun.step aes
      rw [runWith_succ aes _ u _ (stepWith_of_step hp hrun.busy he)]
      rw [HostRun.run_cons (HostRun.turn_engine (hu ▸ hrun.busy) (hu ▸ he))]
      exact ih (u := { u with engine := e }) hl hq' hp rfl hnext
end

/-- Settles O57: before the last step the loop's reads see BUSY = 1; the read after it sees BUSY = 0. -/
theorem waitIdleEndsAtTheCompletionPoint : Obligations.WaitIdleEndsAtTheCompletionPoint := by
  intro aes q h rest hinv hb hl hq
  refine ⟨fun hlt => ?_, fun hlast => ?_⟩
  · obtain ⟨left, hleft⟩ := Nat.exists_eq_add_of_lt hlt
    obtain ⟨g, e, hg, hu, hgl, hge, hrun⟩ := HostRun.run_untilIdle (aes := aes) (u := { h.state with pending := [] })
      hl hq rfl rfl ⟨hinv, hb, hleft⟩
    exact ⟨g, _, hg, hu, hgl.trans hl.symm, hge, hge ▸ hrun.busy⟩
  · obtain ⟨g, e, hg, hu, hgl, hge, hrun⟩ := HostRun.run_untilIdle (aes := aes) (u := { h.state with pending := [] })
      (left := 0) hl hq rfl rfl ⟨hinv, hb, hlast.symm⟩
    obtain ⟨e', he, hidle, hdone⟩ := hrun.step_last aes
    have hturn := HostRun.turn_engine (aes := aes) (h := g) (hge ▸ hrun.busy) (hge ▸ he)
    obtain ⟨g', hread, hge', hgl'⟩ := HostRun.turn_untilIdle (aes := aes)
      (h := { g with state := { g.state with engine := e' } }) hgl
    rw [if_neg (by simp [hidle])] at hgl'
    refine ⟨g', { h.state with pending := [], engine := e' }, ?_, ?_, hgl', hge', hge' ▸ hidle, hge' ▸ hdone⟩
    · rw [HostRun.run_append hg, HostRun.run_cons hturn, HostRun.run_cons hread]
      rfl
    · rw [← hlast, runWith_add hu, runWith_succ aes 0 _ _ (stepWith_of_step rfl hrun.busy he)]
      rfl

end Sys2Proof.Machine

/-! PROOFS. Family 20_memory: the register window (R61 to R75), the order of operand writes (R272), and a running command
under host traffic (R71, R75, R76). -/

namespace Sys2Proof.Machine

/-! ### The window and its registers -/

/-- Settles O54: inside the window the offset is the address less BASE, which is below 4096. -/
theorem windowIsFourKilobytesAtBase : Obligations.WindowIsFourKilobytesAtBase := by
  intro base addr off
  have hoff := off.isLt
  refine ⟨?_, ?_⟩
  · rw [windowOffset, hostAddress, if_pos (by omega), Nat.add_sub_cancel_left, BitVec.ofNat_toNat, BitVec.setWidth_eq]
  · simp only [windowOffset, ite_eq_right_iff, reduceCtorEq, imp_false]
    omega

theorem toNat_offset_mod_four (x : WindowReg) : x.offset.toNat % 4 = 0 := by
  cases x with
  | kek k => rw [toNat_kek_offset]; omega
  | data w => rw [toNat_data_offset]; omega
  | id | ctrl | cmd | status | kekLen | dataLen | outLen | reserved => rfl

/-- R62: the register at a register's own offset. -/
@[simp] theorem windowReg_offset (x : WindowReg) : windowReg x.offset = x := by
  cases x with
  | kek k => rw [windowReg_eq_kek_iff, toNat_kek_offset]; omega
  | data w => rw [windowReg_eq_data_iff, toNat_data_offset]; omega
  | id | ctrl | cmd | status | kekLen | dataLen | outLen | reserved => rfl

theorem memWrite_offset (e : Engine) (x : WindowReg) (v : Word) : e.memWrite x.offset v = e.writeReg v x := by
  rw [memWrite_of_aligned (toNat_offset_mod_four x), windowReg_offset]

theorem memRead_offset (e : Engine) (x : WindowReg) : e.memRead x.offset = .read .okay (e.readReg x) := by
  rw [memRead_of_aligned (toNat_offset_mod_four x), windowReg_offset]

/-- R67, R68: the response of a write, by the number of its offset. -/
theorem writeReply_eq (off : Offset) : writeReply off = .write (if off.toNat % 4 = 0 then .okay else .err) := by
  simp only [writeReply, aligned_iff]

theorem writeReply_of_aligned {off : Offset} (h : off.toNat % 4 = 0) : writeReply off = .write .okay := by
  rw [writeReply_eq, if_pos h]

theorem writeReply_of_misaligned {off : Offset} (h : off.toNat % 4 ≠ 0) : writeReply off = .write .err := by
  rw [writeReply_eq, if_neg h]

/-- R68, R70: an offset that R62 does not list ignores writes, misaligned or not. -/
theorem memWrite_of_unlisted {off : Offset} (h : off.toNat = 0x01C ∨ 0x068 ≤ off.toNat) (e : Engine) (v : Word) :
    e.memWrite off v = e := by
  by_cases hal : off.toNat % 4 = 0
  · rw [memWrite_of_aligned hal, windowReg_eq_reserved hal h]
    rfl
  · exact memWrite_of_misaligned hal e v

/-- Settles O11: the ERR response, and the engine kept. -/
theorem misalignedAccessGetsErr : Obligations.MisalignedAccessGetsErr := by
  intro s off v hmis
  rw [exec_rd_engine, exec_wr_engine, memRead_of_misaligned hmis, memWrite_of_misaligned hmis,
    writeReply_of_misaligned hmis]
  exact ⟨rfl, rfl⟩

/-- Settles O12: the register map lists none of these offsets. -/
theorem reservedOffsetsReadZeroIgnoreWrites : Obligations.ReservedOffsetsReadZeroIgnoreWrites := by
  intro s off v hal hoff
  have hunlisted := hoff.imp_right And.left
  rw [exec_rd_engine, exec_wr_engine, memRead_of_aligned hal, windowReg_eq_reserved hal hunlisted,
    memWrite_of_unlisted hunlisted, writeReply_of_aligned hal]
  exact ⟨rfl, rfl⟩

/-! ### Reads (R66) -/

section
variable {e : Engine} {off : Offset} {resp : Resp} {data : Word}

theorem memRead_data_at (hr : e.memRead off = .read resp data) (x : WindowReg) (hoff : off.toNat = x.offset.toNat) :
    data = e.readReg x := by
  obtain rfl : off = x.offset := BitVec.eq_of_toNat_eq hoff
  rw [memRead_offset] at hr
  cases hr
  rfl

/-- R68: a misaligned read returns 0, so an offset reads as 0 if its register does. -/
theorem memRead_data_eq_zero (hr : e.memRead off = .read resp data)
    (hreg : off.toNat % 4 = 0 → e.readReg (windowReg off) = 0#32) : data = 0#32 := by
  by_cases hal : off.toNat % 4 = 0
  · rw [memRead_of_aligned hal, hreg hal] at hr
    cases hr
    rfl
  · rw [memRead_of_misaligned hal] at hr
    cases hr
    rfl
end

theorem memRead_eq_read (e : Engine) (off : Offset) : ∃ resp data, e.memRead off = .read resp data := by
  unfold Engine.memRead
  split
  · exact ⟨_, _, rfl⟩
  · exact ⟨_, _, rfl⟩

theorem flagWord_eq (b : Bool) : flagWord b = if b then 1#32 else 0#32 := by cases b <;> rfl

/-- R33: STATUS as a number: ERR above DROP, DONE and BUSY. -/
theorem statusWord_toNat (e : Engine) :
    e.statusWord.toNat = e.err.toNat * 16 + e.drop.toNat * 4 + e.done.toNat * 2 + e.busy.toNat := by
  unfold Engine.statusWord flagWord
  generalize e.err = c, e.drop = d, e.done = n, e.busy = b
  revert c d n b
  decide

/-- Settles O8: the read's data is its register's, and a misaligned read's is 0. -/
theorem readReturnsTheRegister : Obligations.ReadReturnsTheRegister := by
  intro s off
  obtain ⟨resp, data, hr⟩ := memRead_eq_read s.engine off
  have at_reg := memRead_data_at hr
  refine ⟨resp, data, ?_, fun hmis => ?_, fun hal => ?_, at_reg .id, fun h => ?_, at_reg .cmd, fun h => ?_,
    at_reg .kekLen, at_reg .dataLen, at_reg .outLen, fun hlo hhi => ?_, fun w h => ?_, fun h => ?_⟩
  · rw [exec_rd_engine, hr]
    rfl
  · rw [memRead_of_misaligned hmis] at hr
    cases hr
    exact ⟨rfl, rfl⟩
  · rw [memRead_of_aligned hal] at hr
    cases hr
    rfl
  · exact (at_reg .ctrl h).trans (flagWord_eq _)
  · rw [at_reg .status h]
    exact statusWord_toNat s.engine
  · have hkek : windowReg off = .kek ⟨(off.toNat - 0x020) / 4, by omega⟩ := (windowReg_eq_kek_iff ..).2 ⟨hlo, rfl⟩
    exact memRead_data_eq_zero hr fun _ => by rw [hkek]; rfl
  · exact at_reg (.data w) (h.trans (toNat_data_offset w).symm)
  · exact memRead_data_eq_zero hr fun hal => by rw [windowReg_eq_reserved hal h]; rfl

/-! ### Bus words and bytes (R9, R63, R64) -/

/-- R63: byte b of a bus word as a number. -/
theorem wordByte_eq_ofNat (v : Word) (b : Nat) : wordByte v b = BitVec.ofNat 8 (v.toNat / 2 ^ (8 * (3 - b))) :=
  extractLsb'_eq_ofNat v (8 * (3 - b)) 8

/-- R63: a bus word is the number its four bytes make. -/
theorem toNat_eq_wordBytes (v : Word) :
    v.toNat = (wordByte v 0).toNat * 2 ^ 24 + (wordByte v 1).toNat * 2 ^ 16 + (wordByte v 2).toNat * 2 ^ 8 +
      (wordByte v 3).toNat := by
  have hv := v.isLt
  simp only [wordByte_eq_ofNat, BitVec.toNat_ofNat]
  omega

/-- A field of a field is a field. -/
theorem extractLsb'_extractLsb' {w : Nat} (x : BitVec w) {s n s' m t : Nat} (hlen : s' + m ≤ n) (ht : t = s + s') :
    (x.extractLsb' s n).extractLsb' s' m = x.extractLsb' t m := by
  ext i hi
  have hin : s' + i < n := by omega
  simp only [BitVec.getElem_extractLsb', BitVec.getLsbD_extractLsb', hin, decide_true, Bool.true_and, ht, Nat.add_assoc]

/-- R9: a byte of an 8-byte value is a byte of one of its halves. -/
theorem chunkByte_eq_wordByte (x : Chunk) {k : Nat} (hk : k < 8) :
    chunkByte x k = wordByte (if k / 4 = 0 then x.extractLsb' 32 32 else x.extractLsb' 0 32) (k % 4) := by
  unfold chunkByte wordByte
  split
  · exact (extractLsb'_extractLsb' x (by omega) (by omega)).symm
  · exact (extractLsb'_extractLsb' x (by omega) (by omega)).symm

/-- R9: an 8-byte value is its two halves. -/
theorem append_halves (x : Chunk) : x.extractLsb' 32 32 ++ x.extractLsb' 0 32 = x :=
  (BitVec.extractLsb'_append_extractLsb'_eq_extractLsb' rfl).trans BitVec.extractLsb'_eq_self

theorem append_high (hi lo : Word) : (hi ++ lo).extractLsb' 32 32 = hi := BitVec.extractLsb'_append_eq_left

theorem append_low (hi lo : Word) : (hi ++ lo).extractLsb' 0 32 = lo := BitVec.extractLsb'_append_eq_right

/-! ### The byte view of S and of KEK (R24, R64) -/

/-- R24, R64: byte b of S is byte b mod 4 of DATA(b / 4). -/
theorem Engine.sByte_eq (e : Engine) (b : Fin 40) :
    e.sByte b = wordByte (e.dataWord ⟨b.val / 4, by omega⟩) (b.val % 4) := by
  have hq : b.val / 4 / 2 = b.val / 8 := by omega
  have hk : b.val % 8 / 4 = b.val / 4 % 2 := by omega
  have hb : b.val % 8 % 4 = b.val % 4 := by omega
  simp only [Engine.sByte, Engine.dataWord, chunkByte_eq_wordByte _ (Nat.mod_lt b.val (by decide : 0 < 8)), hq, hk, hb]

theorem Engine.sByte_of_word (e : Engine) (w : Fin 10) {k b : Nat} (hk : k = 4 * w.val + b) (hb : b < 4) :
    e.sByte ⟨k, by omega⟩ = wordByte (e.dataWord w) b := by
  have hword : k / 4 = w.val := by omega
  have hlane : k % 4 = b := by omega
  simp only [Engine.sByte_eq, hword, hlane]

/-- R64: a register of S is its two DATA words. -/
theorem Engine.stateReg_eq_append (e : Engine) (q : Fin 5) :
    e.stateReg q = e.dataWord ⟨2 * q.val, by omega⟩ ++ e.dataWord ⟨2 * q.val + 1, by omega⟩ := by
  have hq : (2 * q.val + 1) / 2 = q.val := by omega
  have hodd : (2 * q.val + 1) % 2 = 1 := by omega
  simp only [Engine.dataWord, hq, hodd, Nat.mul_mod_right, Nat.mul_div_right _ Nat.two_pos, if_true, one_ne_zero,
    if_false]
  exact (append_halves _).symm

theorem Engine.a_eq_append (e : Engine) : e.a = e.dataWord 0 ++ e.dataWord 1 := e.stateReg_eq_append 0

theorem Engine.r_eq_append (e : Engine) (i : Fin 4) :
    e.r[i] = e.dataWord ⟨2 + 2 * i.val, by omega⟩ ++ e.dataWord ⟨3 + 2 * i.val, by omega⟩ := by
  have hreg : e.stateReg i.succ = e.r[i] := rfl
  have hhigh : 2 * i.succ.val = 2 + 2 * i.val := by rw [Fin.val_succ]; omega
  have hlow : 2 + 2 * i.val + 1 = 3 + 2 * i.val := by omega
  rw [← hreg, Engine.stateReg_eq_append]
  simp only [hhigh, hlow]

/-- R64: a DATA write sets its own word and no other. -/
theorem Engine.dataWord_setDataWord (e : Engine) (w x : Fin 10) (v : Word) :
    (e.setDataWord w v).dataWord x = if x = w then v else e.dataWord x := by
  by_cases hq : x.val / 2 = w.val / 2
  · have hxw : x = w ↔ x.val % 2 = w.val % 2 := by rw [Fin.ext_iff]; omega
    simp only [Engine.dataWord, Engine.setDataWord, hq, Engine.stateReg_setStateReg_self, hxw]
    obtain hx | hx := Nat.mod_two_eq_zero_or_one x.val <;> obtain hw | hw := Nat.mod_two_eq_zero_or_one w.val <;>
      simp [hx, hw, append_high, append_low]
  · have hxw : x ≠ w := fun h => hq (by rw [h])
    simp only [Engine.dataWord, Engine.setDataWord, if_neg hxw]
    rw [Engine.stateReg_setStateReg_ne _ _ _ _ fun h => hq (congrArg Fin.val h)]

/-- R64: a DATA write sets the four bytes of S that its word holds. -/
theorem Engine.sByte_setDataWord (e : Engine) (w : Fin 10) (v : Word) (b : Fin 40) :
    (e.setDataWord w v).sByte b =
      if b.val / 4 = w.val then BitVec.ofNat 8 (v.toNat / 2 ^ (8 * (3 - b.val % 4))) else e.sByte b := by
  rw [← wordByte_eq_ofNat]
  simp only [Engine.sByte_eq, Engine.dataWord_setDataWord, Fin.ext_iff]
  split <;> rfl

/-- R64: a KEK write sets the four bytes of KEK that its word holds. -/
theorem Engine.kek_setKekWord (e : Engine) (k : Fin 8) (v : Word) (b : Fin 32) :
    (e.setKekWord k v).kek[b] =
      if b.val / 4 = k.val then BitVec.ofNat 8 (v.toNat / 2 ^ (8 * (3 - b.val % 4))) else e.kek[b] := by
  rw [← wordByte_eq_ofNat]
  exact Vector.getElem_ofFn b.isLt

/-- Settles O10: a DATA word is the number of its bytes, and a write sets those bytes. -/
theorem busWordsCarryBytesBigEndian : Obligations.BusWordsCarryBytesBigEndian := by
  intro e
  refine ⟨fun w => ?_, e.a_eq_append, e.r_eq_append, e.sByte_setDataWord, e.kek_setKekWord⟩
  rw [e.sByte_of_word w (k := 4 * w.val) (b := 0) rfl (by decide), e.sByte_of_word w rfl (by decide : 1 < 4),
    e.sByte_of_word w rfl (by decide : 2 < 4), e.sByte_of_word w rfl (by decide : 3 < 4)]
  exact toNat_eq_wordBytes _

/-! ### The operand registers (R67, R75) -/

/-- The registers a command takes its operands from (R75, R272). -/
inductive Operand where
  | kekLen
  | dataLen
  | kek (k : Fin 8)
  | data (w : Fin 10)

/-- The register of the window an operand register is (R62). -/
def Operand.reg : Operand → WindowReg
  | .kekLen => .kekLen
  | .dataLen => .dataLen
  | .kek k => .kek k
  | .data w => .data w

/-- What a write to an operand register does while BUSY = 0 (R67). -/
def Operand.write (v : Word) : Operand → Engine → Engine
  | .kekLen, e => { e with kekLen := v }
  | .dataLen, e => { e with dataLen := v }
  | .kek k, e => e.setKekWord k v
  | .data w, e => e.setDataWord w v

section
variable {e : Engine} (x : Operand) (v : Word)

theorem Operand.writeReg_eq : e.writeReg v x.reg = e.unlessBusy (x.write v) := by cases x <;> rfl

theorem Operand.writeReg_of_busy (hb : e.busy = true) : e.writeReg v x.reg = e.dropWrite :=
  x.writeReg_eq v ▸ Engine.unlessBusy_of_busy hb _

theorem Operand.writeReg_of_idle (hb : e.busy = false) : e.writeReg v x.reg = x.write v e :=
  x.writeReg_eq v ▸ Engine.unlessBusy_of_idle hb _

theorem Operand.write_busy : (x.write v e).busy = e.busy := by
  cases x with
  | kekLen | dataLen => rfl
  | kek k => exact e.setKekWord_busy v k
  | data w => exact e.setDataWord_busy v w
end

/-- R62: the offsets of the operand registers. -/
theorem exists_operand {off : Offset} (hal : off.toNat % 4 = 0)
    (h : off.toNat = 0x010 ∨ off.toNat = 0x014 ∨ 0x020 ≤ off.toNat ∧ off.toNat ≤ 0x064) :
    ∃ x : Operand, off = x.reg.offset := by
  obtain h | h | ⟨hlo, hhi⟩ := h
  · exact ⟨.kekLen, BitVec.eq_of_toNat_eq h⟩
  · exact ⟨.dataLen, BitVec.eq_of_toNat_eq h⟩
  · by_cases hkek : off.toNat < 0x040
    · refine ⟨.kek ⟨(off.toNat - 0x020) / 4, by omega⟩, BitVec.eq_of_toNat_eq ?_⟩
      simp only [Operand.reg, toNat_kek_offset]
      omega
    · refine ⟨.data ⟨(off.toNat - 0x040) / 4, by omega⟩, BitVec.eq_of_toNat_eq ?_⟩
      simp only [Operand.reg, toNat_data_offset]
      omega

/-! ### Writes (R67) -/

theorem Engine.statusWrite_eq (e : Engine) (v : Word) :
    e.statusWrite v =
      { e with
        done := if v.getLsbD 1 then false else e.done
        drop := if v.getLsbD 2 then false else e.drop } := by
  unfold Engine.statusWrite
  cases v.getLsbD 1 <;> cases v.getLsbD 2 <;> simp

/-- R67: the write of a register, at an offset given by its number. -/
theorem memWrite_at (e : Engine) (v : Word) {off : Offset} (x : WindowReg) (hoff : off.toNat = x.offset.toNat) :
    e.memWrite off v = e.writeReg v x := by
  obtain rfl : off = x.offset := BitVec.eq_of_toNat_eq hoff
  exact memWrite_offset e x v

/-- Settles O9: the engine after a write is the register's own write. -/
theorem writeChangesTheRegister : Obligations.WriteChangesTheRegister := by
  intro s off v
  have at_reg := memWrite_at s.engine v (off := off)
  refine ⟨s.engine.memWrite off v, ?_, fun hmis => memWrite_of_misaligned hmis _ v, at_reg .id, at_reg .ctrl,
    at_reg .cmd, fun h => (at_reg .status h).trans (Engine.statusWrite_eq ..), at_reg .kekLen, at_reg .dataLen,
    at_reg .outLen, fun k h => ?_, fun w h => ?_, fun h => memWrite_of_unlisted h _ v⟩
  · rw [exec_wr_engine, writeReply_eq]
    rfl
  · rw [at_reg (.kek k) (h.trans (toNat_kek_offset k).symm)]
    cases hb : s.engine.busy with
    | true => exact Operand.writeReg_of_busy (.kek k) v hb
    | false =>
      have hwrite : s.engine.writeReg v (.kek k) = s.engine.setKekWord k v := Operand.writeReg_of_idle (.kek k) v hb
      rw [hwrite]
      exact ⟨rfl, s.engine.kek_setKekWord k v⟩
  · rw [at_reg (.data w) (h.trans (toNat_data_offset w).symm)]
    cases hb : s.engine.busy with
    | true => exact Operand.writeReg_of_busy (.data w) v hb
    | false =>
      have hwrite : s.engine.writeReg v (.data w) = s.engine.setDataWord w v := Operand.writeReg_of_idle (.data w) v hb
      rw [hwrite]
      exact ⟨s.engine.setDataWord_eq v w, s.engine.sByte_setDataWord w v⟩

/-! ### The order of operand writes (R272) -/

/-- R64: an engine is its DATA words and everything but A and R. -/
theorem Engine.eq_of_dataWord {e e' : Engine} (hdata : ∀ w, e'.dataWord w = e.dataWord w)
    (hrest : e' = { e with a := e'.a, r := e'.r }) : e' = e := by
  have ha : e'.a = e.a := by rw [e.a_eq_append, e'.a_eq_append, hdata, hdata]
  have hr : e'.r = e.r := Vector.ext fun i hi => by
    have hchunk := e'.r_eq_append ⟨i, hi⟩
    rw [hdata, hdata, ← e.r_eq_append] at hchunk
    exact hchunk
  rw [ha, hr] at hrest
  exact hrest

section
variable (e : Engine)

theorem Engine.setDataWord_comm {w w' : Fin 10} (hne : w ≠ w') (v v' : Word) :
    (e.setDataWord w v).setDataWord w' v' = (e.setDataWord w' v').setDataWord w v := by
  refine Engine.eq_of_dataWord (fun x => ?_) ?_
  · simp only [Engine.dataWord_setDataWord]
    by_cases hx : x = w
    · rw [if_pos hx, if_pos hx, if_neg fun h => hne (hx.symm.trans h)]
    · rw [if_neg hx, if_neg hx]
  · rw [Engine.setDataWord_eq (e.setDataWord w v)]
    simp only [Engine.setDataWord_kek, Engine.setDataWord_irqEn, Engine.setDataWord_done, Engine.setDataWord_drop,
      Engine.setDataWord_err, Engine.setDataWord_kekLen, Engine.setDataWord_dataLen, Engine.setDataWord_outLen,
      Engine.setDataWord_seq]

theorem Engine.setKekWord_eq (k : Fin 8) (v : Word) :
    e.setKekWord k v = { e with kek := (e.setKekWord k v).kek } := rfl

theorem Engine.setKekWord_comm {k k' : Fin 8} (hne : k ≠ k') (v v' : Word) :
    (e.setKekWord k v).setKekWord k' v' = (e.setKekWord k' v').setKekWord k v := by
  have hkek : ((e.setKekWord k v).setKekWord k' v').kek = ((e.setKekWord k' v').setKekWord k v).kek := by
    refine Vector.ext fun b hb => ?_
    have hbyte (e : Engine) (k : Fin 8) (v : Word) := e.kek_setKekWord k v ⟨b, hb⟩
    simp only [Fin.getElem_fin] at hbyte
    simp only [hbyte]
    by_cases hk : b / 4 = k.val
    · rw [if_pos hk, if_pos hk, if_neg fun h => hne (Fin.ext (hk.symm.trans h))]
    · rw [if_neg hk, if_neg hk]
  rw [Engine.setKekWord_eq (e.setKekWord k v), hkek, Engine.setKekWord_eq (e.setKekWord k' v')]
  simp only [Engine.setKekWord_a, Engine.setKekWord_r, Engine.setKekWord_irqEn, Engine.setKekWord_done,
    Engine.setKekWord_drop, Engine.setKekWord_err, Engine.setKekWord_kekLen, Engine.setKekWord_dataLen,
    Engine.setKekWord_outLen, Engine.setKekWord_seq]

/-- A write that leaves A and R alone commutes with a DATA write. -/
theorem Engine.setDataWord_comm_of_frame {f : Engine → Engine} (ha : ∀ e a, f { e with a := a } = { f e with a := a })
    (hr : ∀ e r, f { e with r := r } = { f e with r := r }) (w : Fin 10) (v : Word) :
    (f e).setDataWord w v = f (e.setDataWord w v) := by
  have hfa : (f e).a = e.a := congrArg (fun e => e.a) (ha e e.a)
  have hfr : (f e).r = e.r := congrArg (fun e => e.r) (hr e e.r)
  have hreg (q : Fin 5) : (f e).stateReg q = e.stateReg q := by simp only [Engine.stateReg, hfa, hfr]
  have hset (q : Fin 5) (x : Chunk) : f (e.setStateReg q x) = (f e).setStateReg q x := by
    unfold Engine.setStateReg
    split
    · exact ha e x
    · rw [hr, hfr]
  simp only [Engine.setDataWord, hreg, hset]
end

/-- R272: an idle write to another operand register commutes with a DATA write. -/
theorem Operand.write_setDataWord (e : Engine) (v v' : Word) {x : Operand} {w : Fin 10} (hne : x ≠ .data w) :
    (x.write v e).setDataWord w v' = x.write v (e.setDataWord w v') := by
  cases x with
  | data w' => exact e.setDataWord_comm (fun h => hne (congrArg _ h)) v v'
  | kekLen | dataLen | kek => exact e.setDataWord_comm_of_frame (fun _ _ => rfl) (fun _ _ => rfl) w v'

/-- R272: idle writes to two different operand registers commute. -/
theorem Operand.write_comm (e : Engine) (v v' : Word) : ∀ {x y : Operand}, x ≠ y →
    y.write v' (x.write v e) = x.write v (y.write v' e)
  | _, .data _, hne => Operand.write_setDataWord e v v' hne
  | .data _, _, hne => (Operand.write_setDataWord e v' v hne.symm).symm
  | .kek _, .kek _, hne => e.setKekWord_comm (fun h => hne (congrArg _ h)) v v'
  | .kekLen, .kekLen, hne | .dataLen, .dataLen, hne => absurd rfl hne
  | .kekLen, .dataLen, _ | .dataLen, .kekLen, _ => rfl
  | .kekLen, .kek _, _ | .kek _, .kekLen, _ | .dataLen, .kek _, _ | .kek _, .dataLen, _ => rfl

/-- R67: the write of an operand register while BUSY = 0. -/
theorem exec_wr_operand {s : State} (hb : s.engine.busy = false) (x : Operand) (v : Word) :
    exec (.wr x.reg.offset v) s = .next (s.respond (x.write v s.engine) (.write .okay)) := by
  rw [exec_wr_engine, memWrite_offset, x.writeReg_of_idle v hb, writeReply_of_aligned (toNat_offset_mod_four _)]

/-- Settles O15: each of the two writes leaves the engine idle, and the two writes commute. -/
theorem operandWritesCommute : Obligations.OperandWritesCommute := by
  intro s off off' v v' hb hne hal hoff hal' hoff'
  obtain ⟨x, rfl⟩ := exists_operand hal hoff
  obtain ⟨y, rfl⟩ := exists_operand hal' hoff'
  have hxy : x ≠ y := fun h => hne (congrArg (fun z => z.reg.offset) h)
  refine ⟨_, _, _, exec_wr_operand hb x v, exec_wr_operand ((x.write_busy v).trans hb) y v', exec_wr_operand hb y v',
    (exec_wr_operand ((y.write_busy v').trans hb) x v).trans ?_⟩
  simp only [State.respond_engine, Operand.write_comm s.engine v v' hxy]
  rfl

/-! ### Host transactions while a command runs (R71, R75) -/

/-- R67, R75: a write that BUSY holds off only sets DROP. -/
theorem memWrite_of_heldOff {e : Engine} {off : Offset} {v : Word} (hb : e.busy = true) (h : HeldOff (.wr off v)) :
    e.memWrite off v = e.dropWrite := by
  obtain ⟨hal, hcmd | hoff⟩ := h
  · rw [memWrite_at e v .cmd hcmd]
    exact (e.cmdWrite_eq v).trans (Engine.unlessBusy_of_busy hb _)
  · obtain ⟨x, rfl⟩ := exists_operand hal hoff
    rw [memWrite_offset, x.writeReg_of_busy v hb]

/-- The parts of a running command's work, one by one. -/
theorem Engine.work_eq_iff {e e' : Engine} : e'.work = e.work ↔
    e'.a = e.a ∧ e'.r = e.r ∧ e'.kek = e.kek ∧ e'.kekLen = e.kekLen ∧ e'.dataLen = e.dataLen ∧ e'.seq = e.seq := by
  simp only [Engine.work, Prod.mk.injEq]

/-- R75: no host transaction touches a running command's operands and progress. -/
theorem HostEffect.work_eq {e e' : Engine} {i : Instr} (h : HostEffect e i e') (hb : e.busy = true) :
    e'.work = e.work := by
  cases h with
  | same | dropped | ctrl | status => rfl
  | kekLen _ hidle | dataLen _ hidle | kek _ _ hidle | data _ _ hidle | cleared hidle | rejected _ hidle
  | accepted _ _ hidle => exact absurd (hb.symm.trans hidle) (by decide)

/-- Settles O14: a held-off write is a dropped write, and the other registers' writes do not look at BUSY. -/
theorem writesWhileBusyAreDropped : Obligations.WritesWhileBusyAreDropped := by
  intro s v hb
  refine ⟨fun off hal hoff => ?_, rfl, ?_, fun off hal hoff => ?_, fun i => ?_⟩
  · rw [exec_wr_engine, memWrite_of_heldOff hb ⟨hal, hoff⟩, writeReply_of_aligned hal]
    rfl
  · rw [exec_wr_engine, memWrite_status, Engine.statusWrite_eq]
    rfl
  · have hkept : s.engine.memWrite off v = s.engine := by
      obtain hid | hout | hunlisted := hoff
      · exact memWrite_at s.engine v .id hid
      · exact memWrite_at s.engine v .outLen hout
      · exact memWrite_of_unlisted hunlisted s.engine v
    rw [exec_wr_engine, hkept, writeReply_of_aligned hal]
    rfl
  · obtain ⟨t, ht, -⟩ := exec_next i s
    exact ⟨t, ht, (exec_hostEffect ht).work_eq hb⟩

/-! ### A running command under host traffic (R71, R75, R76) -/

section
variable {aes : AesPair} {e e' f : Engine}

/-- R29, R103: the key is part of the work. -/
theorem Engine.aesKey_of_work (h : f.work = e.work) : f.aesKey = e.aesKey := by
  obtain ⟨-, -, hkek, hkl, -, -⟩ := Engine.work_eq_iff.1 h
  simp only [Engine.aesKey, hkek, hkl]

theorem Engine.wrapChain_of_work (h : f.work = e.work) (key : AesKey) :
    (f.wrapChain aes key).work = (e.wrapChain aes key).work := by
  obtain ⟨ha, hr, hkek, hkl, hdl, hseq⟩ := Engine.work_eq_iff.1 h
  simp only [Engine.wrapChain, Engine.work, ha, hr, hkek, hkl, hdl, hseq]

theorem Engine.unwrapChain_of_work (h : f.work = e.work) (key : AesKey) :
    (f.unwrapChain aes key).work = (e.unwrapChain aes key).work := by
  obtain ⟨ha, hr, hkek, hkl, hdl, hseq⟩ := Engine.work_eq_iff.1 h
  simp only [Engine.unwrapChain, Engine.work, ha, hr, hkek, hkl, hdl, hseq]

theorem Engine.complete_of_work (h : f.work = e.work) (c c' : ErrCode) (l l' : Word) :
    (f.complete c l).work = (e.complete c' l').work := by
  obtain ⟨ha, hr, hkek, hkl, hdl, -⟩ := Engine.work_eq_iff.1 h
  simp only [Engine.complete, Engine.work, ha, hr, hkek, hkl, hdl]

theorem Engine.advanceWrap_of_work (h : f.work = e.work) : f.advanceWrap.work = e.advanceWrap.work := by
  obtain ⟨ha, hr, hkek, hkl, hdl, hseq⟩ := Engine.work_eq_iff.1 h
  simp only [Engine.advanceWrap, hseq]
  split_ifs
  · simp only [Engine.work, ha, hr, hkek, hkl, hdl]
  · simp only [Engine.work, ha, hr, hkek, hkl, hdl]
  · exact Engine.complete_of_work h ..

theorem Engine.unwrapFinish_of_work (h : f.work = e.work) : f.unwrapFinish.work = e.unwrapFinish.work := by
  obtain ⟨ha, -, hkek, hkl, hdl, hseq⟩ := Engine.work_eq_iff.1 h
  simp only [Engine.unwrapFinish, ha]
  split
  · exact Engine.complete_of_work h ..
  · refine Engine.complete_of_work ?_ ..
    simp only [Engine.zeroState, Engine.work, hkek, hkl, hdl, hseq]

theorem Engine.advanceUnwrap_of_work (h : f.work = e.work) : f.advanceUnwrap.work = e.advanceUnwrap.work := by
  obtain ⟨ha, hr, hkek, hkl, hdl, hseq⟩ := Engine.work_eq_iff.1 h
  simp only [Engine.advanceUnwrap, hseq]
  split_ifs
  · simp only [Engine.work, ha, hr, hkek, hkl, hdl]
  · simp only [Engine.work, ha, hr, hkek, hkl, hdl]
  · exact Engine.unwrapFinish_of_work h

/-- R183, R203: what an engine step does to the work depends on the work alone. -/
theorem Engine.step_of_work (h : f.work = e.work) (he : Engine.step aes e = .ok e') :
    ∃ f', Engine.step aes f = .ok f' ∧ f'.work = e'.work := by
  obtain ⟨-, -, -, -, -, hseq⟩ := Engine.work_eq_iff.1 h
  obtain ⟨key, hk, ⟨ho, rfl⟩ | ⟨ho, rfl⟩⟩ := Engine.step_cases he
  · exact ⟨_, Engine.step_of_wrap ((Engine.aesKey_of_work h).trans hk) (hseq ▸ ho),
      Engine.advanceWrap_of_work (Engine.wrapChain_of_work h key)⟩
  · exact ⟨_, Engine.step_of_unwrap ((Engine.aesKey_of_work h).trans hk) (hseq ▸ ho),
      Engine.advanceUnwrap_of_work (Engine.unwrapChain_of_work h key)⟩

theorem Engine.busy_of_work (h : f.work = e.work) : f.busy = e.busy := by
  obtain ⟨-, -, -, -, -, hseq⟩ := Engine.work_eq_iff.1 h
  exact Engine.busy_congr hseq

theorem Engine.stepsLeft_of_work (h : f.work = e.work) : f.stepsLeft = e.stepsLeft := by
  obtain ⟨-, -, -, -, -, hseq⟩ := Engine.work_eq_iff.1 h
  simp only [Engine.stepsLeft, hseq]
end

/-- R105: a well-formed word is a transaction. -/
theorem fetch_of_wellFormed {w : HostWord} (hw : w.wellFormed = true) : ∃ i, fetch w = .ok i := by
  cases hf : fetch w with
  | ok i => exact ⟨i, rfl⟩
  | error r =>
    obtain ⟨hill, -⟩ := fetch_error hf
    exact absurd (hw.symm.trans hill) (by decide)

/-- R75: a well-formed host word before a running command leaves it running, at the same work. -/
theorem stepWith_host_running {aes : AesPair} {s : State} {w : HostWord} {rest : List Event} {left : Nat}
    (hp : s.pending = .host w :: rest) (hw : w.wellFormed = true) (hrun : s.engine.Running left) :
    ∃ t, stepWith aes s = .next t ∧ t.pending = rest ∧ t.engine.work = s.engine.work ∧ t.engine.Running left := by
  obtain ⟨i, hi⟩ := fetch_of_wellFormed hw
  obtain ⟨t, ht, hrest⟩ := exec_next i { s with pending := rest }
  have heff : HostEffect s.engine i t.engine := exec_hostEffect (s := { s with pending := rest }) ht
  have hwork := heff.work_eq hrun.busy
  exact ⟨t, (stepWith_cons hp).trans ((runEvent_host_ok hi).trans ht), hrest, hwork, heff.inv hrun.inv,
    (Engine.busy_of_work hwork).trans hrun.busy, (Engine.stepsLeft_of_work hwork).trans hrun.stepsLeft⟩

/-- R71, R75, R76: a queue of engine turns and well-formed host words, with fewer engine turns than steps left, leaves a
running command at the work that those engine steps alone make from the same work. -/
theorem runWith_host_traffic {aes : AesPair} {q : List Event} {s u : State} {left : Nat}
    (hq : ∀ ev ∈ q, ev = .engine ∨ ∃ w : HostWord, ev = .host w ∧ w.wellFormed = true) (hs : s.pending = q)
    (hu : u.pending = []) (hwork : u.engine.work = s.engine.work)
    (hrun : s.engine.Running (q.count .engine + left + 1)) :
    ∃ t u', runWith aes q.length s = .next t ∧ runWith aes (q.count .engine) u = .next u' ∧ t.pending = [] ∧
      t.engine.busy = true ∧ t.engine.work = u'.engine.work := by
  induction q generalizing s u with
  | nil => exact ⟨s, u, rfl, rfl, hs, hrun.busy, hwork.symm⟩
  | cons ev q ih =>
    have hq' := fun x hx => hq x (.tail ev hx)
    obtain rfl | ⟨w, rfl, hw⟩ := hq ev (.head q)
    · rw [List.count_cons_self] at hrun ⊢
      rw [show q.count .engine + 1 + left + 1 = q.count .engine + left + 2 by omega] at hrun
      obtain ⟨e, he, hnext⟩ := hrun.step aes
      obtain ⟨e', he', hwork'⟩ := Engine.step_of_work hwork he
      have hstep := (stepWith_cons (aes := aes) hs).trans
        (engineTurn_of_step (s := { s with pending := q }) hrun.busy he)
      have hstep' := stepWith_of_step hu ((Engine.busy_of_work hwork).trans hrun.busy) he'
      rw [List.length_cons, runWith_succ _ _ _ _ hstep, runWith_succ _ _ _ _ hstep']
      exact ih (s := { s with pending := q, engine := e }) (u := { u with engine := e' }) hq' rfl hu hwork' hnext
    · rw [List.count_cons_of_ne (by simp)] at hrun ⊢
      obtain ⟨t, hstep, hrest, hkept, hnext⟩ := stepWith_host_running (aes := aes) hs hw hrun
      rw [List.length_cons, runWith_succ _ _ _ _ hstep]
      exact ih hq' hrest hu (hwork.trans hkept.symm) hnext

/-- Settles O52: host words keep the work, and engine steps depend on the work alone. -/
theorem hostTrafficCannotAlterARunningCommand : Obligations.HostTrafficCannotAlterARunningCommand := by
  intro aes q s hinv hb hp hq hlt
  obtain ⟨left, hleft⟩ := Nat.exists_eq_add_of_lt hlt
  exact runWith_host_traffic hq hp rfl rfl ⟨hinv, hb, hleft⟩

/-! ### The reads of `wait_idle` (R66, R110) -/

/-- Settles O56: the loop's line reads STATUS, whose bit 0 is BUSY. -/
theorem waitIdleRepeatsUntilAReadSeesIdle : Obligations.WaitIdleRepeatsUntilAReadSeesIdle := by
  refine ⟨rfl, fun aes h rest hl => ⟨h.state.engine.statusWord, statusWord_bit0 _, ?_⟩⟩
  have hread : runEvent aes h.state (.host (encode Line.untilIdle.transaction)) =
      .next { h.state with reply := some (.read .okay h.state.engine.statusWord) } := runEvent_host_ok fetch_untilIdle
  have hended : Line.untilIdle.ended (some (.read .okay h.state.engine.statusWord)) = !h.state.engine.busy :=
    ended_untilIdle _
  simp only [HostRun.turn, hl, hread, mapNext_next]
  rw [hended, statusWord_bit0]
  cases h.state.engine.busy <;> rfl

end Sys2Proof.Machine

/-! PROOFS. Family 30_encoding: the two encodings and their round trip (R100 to R108), the step of a fetched word, and
the lines of `setkek` (R109, R110). -/

namespace Sys2Proof.Machine

/-! ### Command words (R100 to R102) -/

/-- Settles O4: the four commands are the numbers 0 to 3, and every number from 4 on is ILLEGAL. -/
theorem fourCommandWordsAreValid : Obligations.FourCommandWordsAreValid := by
  intro v
  simp only [← BitVec.toNat_inj, BitVec.toNat_ofNat]
  obtain ⟨hv, hd⟩ | ⟨hv, hd⟩ | ⟨hv, hd⟩ | ⟨hv, hd⟩ | ⟨hv, hd⟩ := decodeCmd_cases v
  · simp [hv, hd]
  · simp [hv, hd]
  · simp [hv, hd]
  · simp [hv, hd]
  · rw [hd, if_neg (by omega), if_neg (by omega), if_neg (by omega), if_neg (by omega)]

/-- R101: a command word that decodes to a row is that row's word. -/
theorem encode_of_decodeCommandWord {v : Word} {i : Instr} (h : decodeCommandWord v = .ok i) : encode i = .cmd v := by
  unfold decodeCommandWord at h
  obtain ⟨hv, hd⟩ | ⟨hv, hd⟩ | ⟨hv, hd⟩ | ⟨hv, hd⟩ | ⟨-, hd⟩ := decodeCmd_cases v <;> rw [hd] at h <;> cases h
  all_goals exact congrArg HostWord.cmd (BitVec.eq_of_toNat_eq hv.symm)

/-- R101, R140, R141: a write to CMD is the transaction of the command its value encodes. -/
theorem exec_wr_cmd (s : State) (v : Word) :
    exec (.wr 0x008#12 v) s = .next (s.command fun e => e.runCommand (decodeCmd v)) := by
  have hcmd : s.engine.memWrite 0x008#12 v = s.engine.cmdWrite v := memWrite_offset s.engine .cmd v
  rw [exec_wr_engine, hcmd]
  exact congrArg (fun e => Host.Outcome.next (s.respond e (.write .okay))) (s.engine.cmdWrite_eq v)

/-- Settles O16: 0 to 3 decode to the four commands, and each row is its command's transaction. -/
theorem cmdWriteRunsItsCommand : Obligations.CmdWriteRunsItsCommand :=
  fun s => ⟨exec_wr_cmd s 0#32, exec_wr_cmd s 1#32, exec_wr_cmd s 2#32, exec_wr_cmd s 3#32⟩

/-! ### Host-transaction words (R104, R105) -/

/-- R104: an HTW is its four fields, the reserved one 0. -/
theorem htwOf_eq_iff {w : Bool} {off : Offset} {data : Word} {h : BitVec 64} :
    htwOf w off data = h ↔
      h.extractLsb' 44 19 = 0#19 ∧ h.getLsbD 63 = w ∧ h.extractLsb' 32 12 = off ∧ h.extractLsb' 0 32 = data := by
  have hh := h.isLt
  have ho := off.isLt
  have hd := data.isLt
  rw [← BitVec.toNat_inj, htwOf_toNat]
  cases w with
  | false =>
    simp only [htw_r_iff, extractLsb'_eq_iff, Bool.toNat_false, BitVec.toNat_ofNat]
    omega
  | true =>
    simp only [htw_w_iff, extractLsb'_eq_iff, Bool.toNat_true, BitVec.toNat_ofNat]
    omega

section
variable {h : BitVec 64}

theorem decodeHtw_reserved (hres : h.extractLsb' 44 19 ≠ 0#19) : decodeHtw h = .error .reservedHtwBits := by
  rw [decodeHtw, if_pos hres]

theorem decodeHtw_readWithData (hres : h.extractLsb' 44 19 = 0#19) (hr : h.getLsbD 63 = false)
    (hdata : h.extractLsb' 0 32 ≠ 0#32) : decodeHtw h = .error .readWithData := by
  rw [decodeHtw, if_neg (not_not.2 hres), if_pos ⟨hr, hdata⟩]

theorem decodeHtw_wr (hres : h.extractLsb' 44 19 = 0#19) (hw : h.getLsbD 63 = true) :
    decodeHtw h = .ok (.wr (h.extractLsb' 32 12) (h.extractLsb' 0 32)) := by
  rw [decodeHtw, if_neg (not_not.2 hres), if_neg fun hr => absurd (hw.symm.trans hr.1) (by decide), if_pos hw]

theorem decodeHtw_rd (hres : h.extractLsb' 44 19 = 0#19) (hr : h.getLsbD 63 = false)
    (hdata : h.extractLsb' 0 32 = 0#32) : decodeHtw h = .ok (.rd (h.extractLsb' 32 12)) := by
  rw [decodeHtw, if_neg (not_not.2 hres), if_neg fun hd => hd.2 hdata, if_neg (Bool.eq_false_iff.1 hr)]

/-- R105: the transactions an HTW can be, by its fields. -/
theorem decodeHtw_cases {i : Instr} (hi : decodeHtw h = .ok i) :
    h.extractLsb' 44 19 = 0#19 ∧
      (h.getLsbD 63 = true ∧ i = .wr (h.extractLsb' 32 12) (h.extractLsb' 0 32) ∨
       h.getLsbD 63 = false ∧ h.extractLsb' 0 32 = 0#32 ∧ i = .rd (h.extractLsb' 32 12)) := by
  unfold decodeHtw at hi
  split_ifs at hi with hres hread hw
  · cases hi
    exact ⟨not_not.1 hres, .inl ⟨hw, rfl⟩⟩
  · cases hi
    have hr : h.getLsbD 63 = false := Bool.eq_false_iff.2 hw
    exact ⟨not_not.1 hres, .inr ⟨hr, by_contra fun hdata => hread ⟨hr, hdata⟩, rfl⟩⟩

theorem encode_of_decodeHtw {i : Instr} (hi : decodeHtw h = .ok i) : encode i = .htw h := by
  obtain ⟨hres, ⟨hw, rfl⟩ | ⟨hr, hdata, rfl⟩⟩ := decodeHtw_cases hi
  · exact congrArg HostWord.htw (htwOf_eq_iff.2 ⟨hres, hw, rfl, rfl⟩)
  · exact congrArg HostWord.htw (htwOf_eq_iff.2 ⟨hres, hr, rfl, hdata⟩)
end

/-! ### The round trip (R100 to R105) -/

theorem decodeWord_encode (i : Instr) : decodeWord (encode i) = .ok i := by
  cases i with
  | rd off =>
    obtain ⟨hres, hr, hoff, hdata⟩ := htwOf_eq_iff.1 (Eq.refl (htwOf false off 0#32))
    exact (decodeHtw_rd hres hr hdata).trans (by rw [hoff])
  | wr off data =>
    obtain ⟨hres, hw, hoff, hdata⟩ := htwOf_eq_iff.1 (Eq.refl (htwOf true off data))
    exact (decodeHtw_wr hres hw).trans (by rw [hoff, hdata])
  | nop | wrap | unwrap | clear => rfl

/-- Settles O1: an HTW has the fields it is made of, and each CMD row's word is its command's. -/
theorem decodeOfEncodeIsTheInstruction : Obligations.DecodeOfEncodeIsTheInstruction := decodeWord_encode

/-- Settles O2: an instruction fixes the fields of its HTW, or its whole command word. -/
theorem encodeOfDecodeIsTheWord : Obligations.EncodeOfDecodeIsTheWord := by
  intro h i hi
  cases h with
  | htw h => exact encode_of_decodeHtw hi
  | cmd v => exact encode_of_decodeCommandWord hi

/-- Settles O3: the checks of R105 in their order, on the fields as numbers. -/
theorem htwIsDecodedOrRefusedByName : Obligations.HtwIsDecodedOrRefusedByName := by
  intro h s
  have hres_iff : h.extractLsb' 44 19 = 0#19 ↔ h.toNat / 2 ^ 44 % 2 ^ 19 = 0 := extractLsb'_eq_iff h 44 0#19
  have hdata_iff : h.extractLsb' 0 32 = 0#32 ↔ h.toNat % 2 ^ 32 = 0 := by
    rw [extractLsb'_eq_iff, pow_zero, Nat.div_one]
    rfl
  have hoff : (h.extractLsb' 32 12).toNat = h.toNat / 2 ^ 32 % 2 ^ 12 := ((extractLsb'_eq_iff h 32 _).1 rfl).symm
  have hdata : (h.extractLsb' 0 32).toNat = h.toNat % 2 ^ 32 := by
    rw [← (extractLsb'_eq_iff h 0 _).1 rfl, pow_zero, Nat.div_one]
  rw [ne_eq, ne_eq, ← htw_w_iff, ← htw_r_iff, ← hres_iff, ← hdata_iff]
  refine ⟨decodeHtw_reserved, decodeHtw_readWithData, fun hres hw => ⟨_, _, decodeHtw_wr hres hw, hoff, hdata, ?_⟩,
    fun hres hr hd => ⟨_, decodeHtw_rd hres hr hd, hoff, ?_⟩⟩
  · exact fun hmis => (misalignedAccessGetsErr s _ _ hmis).2
  · exact fun hmis => (misalignedAccessGetsErr s _ 0#32 hmis).1

/-- Settles O5: the words are literals, and the decoder evaluates on them. -/
theorem tableWordsDecodeToTheirRows : Obligations.TableWordsDecodeToTheirRows := by
  unfold Obligations.TableWordsDecodeToTheirRows
  decide

/-! ### The step of a host word (R105, R108) -/

theorem fetch_of_decodeWord {w : HostWord} {i : Instr} (h : decodeWord w = .ok i) : fetch w = .ok i := by
  simp only [fetch, h]

theorem fetch_of_illegalCommand {w : HostWord} {v : Word} (h : decodeWord w = .error (.illegalCommand v)) :
    fetch w = .ok (.wr cmdOffset v) := by
  simp only [fetch, h]

theorem fetch_encode (i : Instr) : fetch (encode i) = .ok i := fetch_of_decodeWord (decodeWord_encode i)

theorem stepWith_of_fetch {aes : AesPair} {s : State} {w : HostWord} {rest : List Event} {i : Instr}
    (hp : s.pending = .host w :: rest) (hf : fetch w = .ok i) : stepWith aes s = exec i { s with pending := rest } :=
  (stepWith_cons hp).trans (runEvent_host_ok hf)

/-- Settles O6: the step fetches the word, and the fetch is the decoder's or the CMD write of an ILLEGAL word. -/
theorem stepRunsTheDecodedInstruction : Obligations.StepRunsTheDecodedInstruction := by
  intro s w rest hp
  exact ⟨fun i hi => stepWith_of_fetch hp (fetch_of_decodeWord hi),
    fun v hv => stepWith_of_fetch hp (fetch_of_illegalCommand hv)⟩

/-! ### Programs of operand writes (R109) -/

/-- R109: the line that writes v to an operand register. -/
def Operand.line (p : Operand × Word) : Instr := .wr p.1.reg.offset p.2

/-- R67: the engine after operand writes while BUSY = 0, the first of the list first. -/
def Engine.writeAll (e : Engine) (ws : List (Operand × Word)) : Engine := ws.foldl (fun e p => p.1.write p.2 e) e

/-- R67, R109: the host's operand writes, run one by one on an idle engine, all complete. -/
theorem runWith_operandLines (aes : AesPair) (ws : List (Operand × Word)) {s : State} (hb : s.engine.busy = false)
    (hp : s.pending = assemble (ws.map Operand.line)) :
    ∃ t, runWith aes ws.length s = .next t ∧ t.engine = s.engine.writeAll ws := by
  induction ws generalizing s with
  | nil => exact ⟨s, rfl, rfl⟩
  | cons p ws ih =>
    have hstep := (stepWith_of_fetch (aes := aes) hp (fetch_encode _)).trans
      (exec_wr_operand (s := { s with pending := assemble (ws.map Operand.line) }) hb p.1 p.2)
    rw [List.length_cons, runWith_succ _ _ _ _ hstep]
    exact ih ((p.1.write_busy p.2).trans hb) rfl

/-! ### The bytes `setkek` writes (R63, R110) -/

/-- R63: a packed word as the number its bytes make. -/
theorem packWord_toNat (b0 b1 b2 b3 : Byte) :
    (packWord b0 b1 b2 b3).toNat = b0.toNat * 2 ^ 24 + b1.toNat * 2 ^ 16 + b2.toNat * 2 ^ 8 + b3.toNat := by
  have h1 := b1.isLt
  have h2 := b2.isLt
  have h3 := b3.isLt
  show BitVec.toNat (b0 ++ b1 ++ b2 ++ b3 : BitVec (8 + 8 + 8 + 8)) = _
  rw [BitVec.toNat_append, BitVec.toNat_append, BitVec.toNat_append, ← Nat.shiftLeft_add_eq_or_of_lt h1,
    ← Nat.shiftLeft_add_eq_or_of_lt h2, ← Nat.shiftLeft_add_eq_or_of_lt h3]
  simp only [Nat.shiftLeft_eq]
  omega

/-- R63, R110: byte j of the word packed from bytes 4k .. 4k+3 is byte 4k+j. -/
theorem wordByte_packAt (b : List Byte) (k : Nat) {j : Nat} (hj : j < 4) :
    wordByte (packAt b k) j = b.getD (4 * k + j) 0#8 := by
  have h0 := (b.getD (4 * k) 0#8).isLt
  have h1 := (b.getD (4 * k + 1) 0#8).isLt
  have h2 := (b.getD (4 * k + 2) 0#8).isLt
  have h3 := (b.getD (4 * k + 3) 0#8).isLt
  rw [wordByte, extractLsb'_eq_iff, packAt, packWord_toNat]
  interval_cases j
  · show _ = (b.getD (4 * k) 0#8).toNat
    omega
  · omega
  · omega
  · omega

/-- R110: the writes of the first n words of b to KEK0, KEK1, .. -/
def kekWrites (b : List Byte) (n : Nat) : List (Operand × Word) :=
  (List.range n).map fun k => (.kek (Fin.ofNat 8 k), packAt b k)

/-- R110: there are eight KEK words, at consecutive word offsets from 0x020. -/
theorem packLines_kek (b : List Byte) (hlen : b.length ≤ 32) :
    packLines 0x020 b = (kekWrites b (b.length / 4)).map Operand.line := by
  rw [packLines, kekWrites, List.map_map]
  refine List.map_congr_left fun k hk => ?_
  have hk8 : k < 8 := by
    have := List.mem_range.1 hk
    omega
  simp [Operand.line, Operand.reg, WindowReg.offset, Nat.mod_eq_of_lt hk8]

/-- R64, R110: the KEK writes change KEK only, and byte k of KEK only below 4n, to byte k of b. -/
theorem writeAll_kekWrites (e : Engine) (b : List Byte) {n : Nat} (hn : n ≤ 8) :
    ∃ kek, e.writeAll (kekWrites b n) = { e with kek := kek } ∧
      ∀ k : Fin 32, kek[k] = if k.val / 4 < n then b.getD k.val 0#8 else e.kek[k] := by
  induction n with
  | zero => exact ⟨e.kek, rfl, fun k => rfl⟩
  | succ n ih =>
    obtain ⟨kek, hfold, hkek⟩ := ih (by omega)
    have hlast : e.writeAll (kekWrites b (n + 1)) =
        { e with kek := kek }.setKekWord (Fin.ofNat 8 n) (packAt b n) := by
      rw [← hfold, Engine.writeAll, kekWrites, List.range_succ, List.map_append, List.foldl_append]
      rfl
    refine ⟨_, hlast, fun k => ?_⟩
    have hmod : (Fin.ofNat 8 n).val = n := Nat.mod_eq_of_lt hn
    have hbyte := { e with kek := kek }.kek_setKekWord (Fin.ofNat 8 n) (packAt b n) k
    rw [← wordByte_eq_ofNat, hmod, wordByte_packAt b n (Nat.mod_lt k.val (by decide)), hkek] at hbyte
    refine hbyte.trans ?_
    by_cases hk : k.val / 4 = n
    · rw [if_pos hk, if_pos (by omega), ← hk, Nat.div_add_mod]
    · rw [if_neg hk]
      exact if_congr (by omega) rfl rfl

/-- R110: the lines of `setkek`, as operand writes. -/
theorem setkek_lines {b : List Byte} {lines : List Instr} (h : Pseudo.expand (.setkek b) = some (lines.map .one)) :
    b.length % 4 = 0 ∧ b.length ≤ 32 ∧
      lines = ((.kekLen, BitVec.ofNat 32 b.length) :: kekWrites b (b.length / 4)).map Operand.line := by
  simp only [Pseudo.expand] at h
  split_ifs at h with hlen
  obtain ⟨hmod, hle⟩ := hlen
  have hone : Function.Injective Line.one := fun _ _ h => Line.one.inj h
  refine ⟨hmod, hle, ?_⟩
  rw [← hone.list_map (Option.some.inj h), packLines_kek b hle]
  rfl

/-- Settles O53: the lines are the write of KEK_LEN and one write for each word of KEK, and they run one by one. -/
theorem setkekLoadsTheKek : Obligations.SetkekLoadsTheKek := by
  intro aes s b lines hb hexp hp
  obtain ⟨hmod, hle, rfl⟩ := setkek_lines hexp
  obtain ⟨t, ht, hengine⟩ := runWith_operandLines aes _ hb hp
  obtain ⟨kek, hwrites, hkek⟩ :=
    writeAll_kekWrites { s.engine with kekLen := BitVec.ofNat 32 b.length } b (n := b.length / 4) (by omega)
  have hfinal : t.engine = { s.engine with kekLen := BitVec.ofNat 32 b.length, kek := kek } := hengine.trans hwrites
  refine ⟨by simp [kekWrites], t, by rwa [List.length_map], by rw [hfinal], fun k => ?_⟩
  rw [hfinal]
  refine (hkek k).trans ?_
  by_cases hk : k.val < b.length
  · rw [if_pos (by omega), List.getD_eq_getElem _ _ hk, List.getD_eq_getElem _ _ hk]
  · rw [if_neg (by omega), List.getD_eq_default _ _ (by omega)]

end Sys2Proof.Machine

/-! PROOFS. Family 40_commands: the transactions that issue a command, while BUSY = 1 and while BUSY = 0 (R140 to R144). -/

namespace Sys2Proof.Machine

/-! ### The transaction of a command (R101, R140, R141) -/

/-- R140, R141: each way to issue a command is that command's transaction. -/
theorem Issues.exec_eq {i : Instr} {c : Command} (h : Issues i c) (s : State) :
    exec i s = .next (s.command fun e => e.runCommand c) := by
  cases h with
  | wr hv => exact hv ▸ exec_wr_cmd s _
  | nop | wrap | unwrap | clear => rfl

/-- R141: a transaction that issues a command, while a command runs, only sets DROP. -/
theorem Issues.exec_of_busy {i : Instr} {c : Command} (h : Issues i c) {s : State} (hb : s.engine.busy = true) :
    exec i s = .next (s.respond s.engine.dropWrite (.write .okay)) := by
  rw [h.exec_eq, State.command, Engine.unlessBusy_of_busy hb]

/-- R140: a transaction that issues a command, while none runs, performs it. -/
theorem Issues.exec_of_idle {i : Instr} {c : Command} (h : Issues i c) {s : State} (hb : s.engine.busy = false) :
    exec i s = .next (s.respond (s.engine.runCommand c) (.write .okay)) := by
  rw [h.exec_eq, State.command, Engine.unlessBusy_of_idle hb]

/-- Settles O17: each of the five transactions issues a command, whichever one v encodes. -/
theorem commandWhileBusyIsDropped : Obligations.CommandWhileBusyIsDropped := by
  intro s v hb i hi
  have hissues : ∃ c, Issues i c := by
    obtain rfl | rfl | rfl | rfl | rfl := hi
    · exact ⟨_, .wr rfl⟩
    · exact ⟨_, .nop⟩
    · exact ⟨_, .wrap⟩
    · exact ⟨_, .unwrap⟩
    · exact ⟨_, .clear⟩
  obtain ⟨c, hc⟩ := hissues
  exact hc.exec_of_busy hb

/-! ### ILLEGAL (R142) -/

/-- R102: a value with bits 31:4 not 0, or with OP from 4 to 15, is no command. -/
theorem decodeCmd_eq_illegal {v : Word} (h : v.toNat / 2 ^ 4 ≠ 0 ∨ 4 ≤ v.toNat % 2 ^ 4) : decodeCmd v = .illegal := by
  obtain ⟨hv, -⟩ | ⟨hv, -⟩ | ⟨hv, -⟩ | ⟨hv, -⟩ | ⟨-, hd⟩ := decodeCmd_cases v
  · omega
  · omega
  · omega
  · omega
  · exact hd

/-- Settles O18: the value decodes to ILLEGAL, whose command is Complete(5, 0). -/
theorem illegalCommandCompletesWithCodeFive : Obligations.IllegalCommandCompletesWithCodeFive :=
  fun _ _ hb hv => (Issues.wr (decodeCmd_eq_illegal hv)).exec_of_idle hb

/-! ### CLEAR (R143) -/

/-- R143: what CLEAR leaves, element by element: DROP and IRQ_EN are the only ones it keeps. -/
theorem Engine.clear_eq (e : Engine) :
    e.clear = { Engine.reset with irqEn := e.irqEn, done := true, drop := e.drop } := rfl

/-- R143: a second CLEAR changes nothing, since the first keeps the two elements it depends on. -/
theorem Engine.clear_clear (e : Engine) : e.clear.clear = e.clear := by
  rw [e.clear.clear_eq, e.clear_eq]

/-- Settles O19: what CLEAR leaves is idle, so that the second CLEAR runs, on an engine that CLEAR does not change. -/
theorem clearZeroesKeyMaterial : Obligations.ClearZeroesKeyMaterial := by
  intro s hb
  have hagain := Issues.clear.exec_of_idle (s := s.respond s.engine.clear (.write .okay)) s.engine.clear_busy
  refine ⟨_, Issues.clear.exec_of_idle hb, rfl, rfl, fun i => ?_, fun b => ?_, hagain.trans ?_⟩
  · exact Vector.getElem_replicate i.isLt
  · exact Vector.getElem_replicate b.isLt
  · exact congrArg (fun e => Host.Outcome.next (s.respond e (.write .okay))) s.engine.clear_clear

/-! ### NOP (R144) -/

/-- Settles O20: the command of NOP is the identity, and BUSY holds it off like every other. -/
theorem nopHasNoEffect : Obligations.NopHasNoEffect :=
  fun _ => ⟨Issues.nop.exec_of_idle, Issues.nop.exec_of_busy⟩

end Sys2Proof.Machine

/-! PROOFS. Family 41_validation: the accepted lengths, the code of each rejected pair, and the command that raises it
(R160 to R169). -/

namespace Sys2Proof.Machine

/-! ### The accepted lengths (R169) -/

/-- Settles O21: WRAP's DATA_LEN is 8·N and UNWRAP's 8·(N + 1). -/
theorem acceptedLengthsAreTheTable : Obligations.AcceptedLengthsAreTheTable :=
  fun k d n => ⟨validate_eq_none_iff .wrap k d n, validate_eq_none_iff .unwrap k d n⟩

/-! ### The code of each pair (R160 to R165) -/

/-- R162: a DATA_LEN below the command's minimum. -/
def Op.TooShort : Op → Nat → Prop
  | .wrap, d => d = 0
  | .unwrap, d => d = 0 ∨ d = 8

/-- R164, R165: a DATA_LEN above the command's maximum, under a KEK of k bytes. -/
def Op.TooLarge : Op → Nat → Nat → Prop
  | .wrap, k, d => d > k
  | .unwrap, k, d => d > k + 8

/-- R163: each code, with the checks that pass before it and the one that fails. -/
theorem validate_code_cases (op : Op) (k d : Word) :
    let kekOk := k.toNat = 16 ∨ k.toNat = 24 ∨ k.toNat = 32
    let dataOk := d.toNat % 8 = 0 ∧ ¬ op.TooShort d.toNat
    (¬ kekOk ∧ (validate op k d).1 = .invalidKekLength) ∨
    (kekOk ∧ ¬ dataOk ∧ (validate op k d).1 = .invalidDataLength) ∨
    (kekOk ∧ dataOk ∧ op.TooLarge k.toNat d.toNat ∧ (validate op k d).1 = .dataTooLarge) ∨
    (kekOk ∧ dataOk ∧ ¬ op.TooLarge k.toNat d.toNat ∧ (validate op k d).1 = .none) := by
  cases op <;> simp only [validate, Op.TooShort, Op.TooLarge]
  all_goals repeat' split
  all_goals simp only [reduceCtorEq, and_true, and_false, or_false, false_or]
  all_goals omega

/-- Settles O22: the four cases of the checks exclude each other, and each has its own code. -/
theorem firstFailingCheckDecides : Obligations.FirstFailingCheckDecides := by
  intro op k d kekOk tooShort tooLarge
  have hshort : op.TooShort d.toNat ↔ tooShort := by cases op <;> exact Iff.rfl
  have hlarge : op.TooLarge k.toNat d.toNat ↔ tooLarge := by cases op <;> exact Iff.rfl
  rw [← hshort, ← hlarge]
  obtain ⟨hk, hc⟩ | ⟨hk, hd, hc⟩ | ⟨hk, hd, hl, hc⟩ | ⟨hk, hd, hl, hc⟩ := validate_code_cases op k d
  all_goals
    simp only [hc, reduceCtorEq, true_iff, false_iff]
    tauto

/-! ### The command that fails validation (R166, R240) -/

/-- R166: an issue whose lengths fail validation raises the code, one of R240's first three. -/
theorem Engine.issue_of_rejected {e : Engine} {op : Op} {code : ErrCode} (accept : Nat → Engine)
    (hv : (validate op e.kekLen e.dataLen).1 = code) (hc : code ≠ .none) :
    (code = .invalidKekLength ∨ code = .invalidDataLength ∨ code = .dataTooLarge) ∧
      e.issue op accept = e.raiseErr code := by
  obtain ⟨n, hn, -⟩ | ⟨c, hcode, hn, hissue⟩ := e.issue_cases op accept
  · exact absurd (hv.symm.trans (congrArg Prod.fst hn)) hc
  · obtain rfl : c = code := (congrArg Prod.fst hn).symm.trans hv
    exact ⟨hcode, hissue⟩

/-- R181, R201: the two commands that validate their lengths are issues of their operation. -/
theorem Engine.runCommand_command (e : Engine) (op : Op) : e.runCommand op.command = e.issue op (e.accept op) := by
  cases op <;> rfl

/-- Settles O23: the row issues its operation, whose issue is Complete(code, 0). -/
theorem failedValidationChangesOnlyTheOutcome : Obligations.FailedValidationChangesOnlyTheOutcome := by
  intro s op i code hb hrow hv hc
  have hissues : Issues i op.command := by
    obtain ⟨rfl, rfl⟩ | ⟨rfl, rfl⟩ := hrow
    · exact .wrap
    · exact .unwrap
  obtain ⟨hcode, hissue⟩ := s.engine.issue_of_rejected (s.engine.accept op) hv hc
  have hexec := hissues.exec_of_idle hb
  rw [s.engine.runCommand_command op, hissue] at hexec
  refine ⟨code.bits, hexec, ?_⟩
  obtain rfl | rfl | rfl := hcode
  · exact .inl ⟨rfl, rfl⟩
  · exact .inr (.inl ⟨rfl, rfl⟩)
  · exact .inr (.inr ⟨rfl, rfl⟩)

end Sys2Proof.Machine

/-! PROOFS. Family 42_wrap: acceptance, the chaining step, the order of the pairs, and a whole WRAP (R181 to R186). -/

namespace Sys2Proof.Machine

/-! ### Acceptance (R182) -/

/-- R166: an issue whose lengths pass validation is an acceptance on that number of chunks. -/
theorem Engine.issue_of_accepted {e : Engine} {op : Op} {n : Nat} (accept : Nat → Engine)
    (hv : validate op e.kekLen e.dataLen = (.none, n)) : e.issue op accept = accept n := by
  simp only [Engine.issue, hv]

/-- R182, R202: while BUSY = 0, a transaction that issues an operation on accepted lengths starts it. -/
theorem Issues.exec_of_accepted {i : Instr} {op : Op} {s : State} {n : Nat} (hi : Issues i op.command)
    (hb : s.engine.busy = false) (hacc : AcceptedChunks s.engine.kekLen n)
    (hdata : s.engine.dataLen.toNat = op.dataBytes n) :
    exec i s = .next (s.respond (s.engine.accept op n) (.write .okay)) := by
  have hv := (validate_eq_none_iff op s.engine.kekLen s.engine.dataLen n).2 ⟨hacc, hdata⟩
  rw [hi.exec_of_idle hb, s.engine.runCommand_command op, Engine.issue_of_accepted _ hv]

/-- Settles O24: the row issues WRAP, whose acceptance clears DONE and so irq. -/
theorem wrapIsAccepted : Obligations.WrapIsAccepted :=
  fun _ _ hb hacc hdata => ⟨_, Issues.wrap.exec_of_accepted (op := .wrap) hb hacc hdata, rfl, rfl⟩

/-! ### Blocks and counters as numbers (R220 to R225) -/

theorem block_eq_ofNat (a r : Chunk) : block a r = BitVec.ofNat 128 (a.toNat * 2 ^ 64 + r.toNat) := by
  have ha := a.isLt
  have hr := r.isLt
  apply BitVec.eq_of_toNat_eq
  rw [block, BitVec.toNat_append, ← Nat.shiftLeft_add_eq_or_of_lt hr, Nat.shiftLeft_eq, BitVec.toNat_ofNat,
    Nat.mod_eq_of_lt (by omega)]

theorem msb_toNat (b : Block) : (msb b).toNat = b.toNat / 2 ^ 64 := by
  have hb := b.isLt
  rw [msb, BitVec.extractLsb'_toNat, Nat.shiftRight_eq_div_pow, Nat.mod_eq_of_lt (by omega)]

theorem lsb_toNat (b : Block) : (lsb b).toNat = b.toNat % 2 ^ 64 := by
  rw [lsb, BitVec.extractLsb'_toNat, Nat.shiftRight_zero]

theorem icvXor_toNat (a : Chunk) (t : Byte) : (icvXor a t).toNat = a.toNat ^^^ t.toNat := by
  have ht := t.isLt
  rw [icvXor, BitVec.toNat_xor, BitVec.toNat_setWidth, Nat.mod_eq_of_lt (by omega)]

theorem Seq.counter_toNat (q : Seq) : q.counter.toNat = (q.n.toNat * q.j.toNat + q.i.toNat + 1) % 256 := rfl

/-! ### The advance of WRAP (R184, R185) -/

section
variable (e : Engine)

/-- R184, R185: the advance changes SEQ and the outcome only. -/
theorem Engine.advanceWrap_frame :
    e.advanceWrap = { e with
      seq := e.advanceWrap.seq, done := e.advanceWrap.done, err := e.advanceWrap.err
      outLen := e.advanceWrap.outLen } := by
  obtain ⟨-, h⟩ | ⟨-, -, h⟩ | ⟨-, -, h⟩ := e.advanceWrap_cases
  · simp only [h]
  · simp only [h]
  · rw [h]; rfl

@[simp] theorem Engine.advanceWrap_a : e.advanceWrap.a = e.a := by rw [Engine.advanceWrap_frame]

@[simp] theorem Engine.advanceWrap_r : e.advanceWrap.r = e.r := by rw [Engine.advanceWrap_frame]

/-- R184: an advance that leaves the command running keeps its operation, its N and the outcome. -/
theorem Engine.advanceWrap_of_running (hb : e.advanceWrap.busy = true) :
    (e.advanceWrap.seq.op = e.seq.op ∧ e.advanceWrap.seq.n = e.seq.n) ∧
      e.advanceWrap.done = e.done ∧ e.advanceWrap.err = e.err ∧ e.advanceWrap.outLen = e.outLen := by
  obtain ⟨-, h⟩ | ⟨-, -, h⟩ | ⟨-, -, h⟩ := e.advanceWrap_cases
  · simp [h]
  · simp [h]
  · rw [h] at hb
    cases hb

variable {e}

theorem Engine.advanceWrap_in_round (hi : e.seq.i.toNat + 1 < e.seq.n.toNat) :
    e.advanceWrap = { e with seq := { e.seq with i := e.seq.i + 1#2 } } := if_pos hi

theorem Engine.advanceWrap_next_round (hi : e.seq.n.toNat ≤ e.seq.i.toNat + 1) (hj : e.seq.j.toNat < 5) :
    e.advanceWrap = { e with seq := { e.seq with i := 0#2, j := e.seq.j + 1#3 } } :=
  (if_neg hi.not_gt).trans (if_pos hj)

theorem Engine.advanceWrap_last (hi : e.seq.n.toNat ≤ e.seq.i.toNat + 1) (hj : 5 ≤ e.seq.j.toNat) :
    e.advanceWrap = e.wrapComplete := (if_neg hi.not_gt).trans (if_neg hj.not_gt)

theorem Engine.wrapComplete_outLen (e : Engine) : e.wrapComplete.outLen.toNat = 8 * (e.seq.n.toNat + 1) := by
  have hn := e.seq.n.isLt
  rw [Engine.wrapComplete, Engine.complete_outLen, BitVec.toNat_ofNat, Nat.mod_eq_of_lt (by omega)]
end

/-! ### The engine's turn in a WRAP (R183) -/

/-- R183: with nothing outstanding, the next turn of a running WRAP is its chaining step. -/
theorem stepWith_wrap {aes : AesPair} {s : State} {key : AesKey} (hp : s.pending = [])
    (hk : s.engine.aesKey = some key) (hb : s.engine.busy = true) (ho : s.engine.seq.op = .wrap) :
    stepWith aes s = .next { s with engine := (s.engine.wrapChain aes key).advanceWrap } :=
  stepWith_of_step hp hb (Engine.step_of_wrap hk ho)

/-- R183, R185: the chaining step keeps KEK, the lengths, DROP and IRQ_EN. -/
theorem Engine.wrapStep_frame (e : Engine) (aes : AesPair) (key : AesKey) :
    let e' := (e.wrapChain aes key).advanceWrap
    e' = { e with
      a := e'.a, r := e'.r, seq := e'.seq, done := e'.done, err := e'.err, outLen := e'.outLen } := by
  intro e'
  rw [Engine.advanceWrap_a, Engine.advanceWrap_r]
  exact (e.wrapChain aes key).advanceWrap_frame

/-- Settles O25: the chaining step makes A and R[i], and the advance the rest. -/
theorem wrapStepChainsOneBlock : Obligations.WrapStepChainsOneBlock := by
  intro aes s key hp hk hrun ho b t
  have hb : b = aes.enc key (block s.engine.a s.engine.r[s.engine.seq.index]) := by rw [block_eq_ofNat]
  refine ⟨_, stepWith_wrap hp hk (s.engine.busy_iff.2 hrun) ho, ?_, ?_, fun k hki => ?_, ?_, fun hi => ?_,
    fun hi hj => ?_, fun hi hj => ?_, fun hbusy => ?_⟩
  · rw [Engine.advanceWrap_a, Engine.wrapChain_a, icvXor_toNat, msb_toNat, Seq.counter_toNat, hb]
  · rw [Engine.advanceWrap_r, Engine.wrapChain_r_index, lsb_toNat, hb]
  · rw [Engine.advanceWrap_r, Engine.wrapChain_r_ne _ _ _ k hki]
  · exact congrArg (fun e => { s with engine := e }) (s.engine.wrapStep_frame aes key)
  · exact congrArg Engine.seq (Engine.advanceWrap_in_round (e := s.engine.wrapChain aes key) hi)
  · exact congrArg Engine.seq (Engine.advanceWrap_next_round (e := s.engine.wrapChain aes key) hi hj)
  · exact congrArg Engine.busy (Engine.advanceWrap_last (e := s.engine.wrapChain aes key) hi hj)
  · exact (Engine.advanceWrap_of_running _ hbusy).2

/-- R185: the chaining step at (5, N−1) completes the command. -/
theorem Engine.wrapChain_last {aes : AesPair} {key : AesKey} {e : Engine} (hj : e.seq.j.toNat = 5)
    (hi : e.seq.i.toNat + 1 = e.seq.n.toNat) :
    (e.wrapChain aes key).advanceWrap = (e.wrapChain aes key).wrapComplete :=
  Engine.advanceWrap_last hi.ge hj.ge

/-- Settles O27: the invariant gives the step its key, and the step at (5, N−1) is WrapComplete. -/
theorem lastWrapStepCompletes : Obligations.LastWrapStepCompletes := by
  intro aes s hinv hp hb ho hj hi
  obtain ⟨key, hk⟩ := s.engine.aesKey_isSome.2 (hinv.run_kek hb)
  refine ⟨_, stepWith_wrap hp hk hb ho, ?_⟩
  rw [Engine.wrapChain_last hj hi]
  exact ⟨rfl, rfl, rfl, rfl, Engine.wrapComplete_outLen _⟩

/-! ### The schedule as the positions 0 .. 6N − 1 (R184) -/

/-- R184: the pair (j, i) at position n·j + i. -/
def wrapPair (n m : Nat) : Nat × Nat := (m / n, m % n)

theorem wrapPair_position {n j i : Nat} (hi : i < n) : wrapPair n (n * j + i) = (j, i) := by
  rw [wrapPair, Nat.mul_add_div (by omega), Nat.div_eq_of_lt hi, Nat.mul_add_mod, Nat.mod_eq_of_lt hi, Nat.add_zero]

/-- The first m rounds of n pairs, in ascending order, are the positions below n·m. -/
theorem rounds_eq_map_wrapPair (n m : Nat) :
    ((List.range m).flatMap fun j => (List.range n).map fun i => (j, i)) = (List.range (n * m)).map (wrapPair n) := by
  induction m with
  | zero => rfl
  | succ m ih =>
    have hround : ((List.range n).map fun i => wrapPair n (n * m + i)) = (List.range n).map fun i => (m, i) :=
      List.map_congr_left fun i hi => wrapPair_position (List.mem_range.1 hi)
    rw [List.range_succ, List.flatMap_append, ih, Nat.mul_succ, List.range_add, List.map_append, List.map_map,
      List.flatMap_singleton, ← hround]
    rfl

theorem wrapSchedule_eq_map_wrapPair (n : Nat) : wrapSchedule n = (List.range (6 * n)).map (wrapPair n) := by
  rw [Nat.mul_comm]
  exact rounds_eq_map_wrapPair n 6

/-! ### The chunks R[0] .. R[N−1] as a list -/

section
variable {e : Engine} {n : Nat}

theorem Engine.length_chunks (hn : n ≤ 4) : (e.chunks n).length = n := by
  simp [Engine.chunks, hn]

theorem Engine.chunks_getD {i : Fin 4} (hi : i.val < n) : (e.chunks n).getD i.val 0#64 = e.r[i] := by
  simp [Engine.chunks, List.getD_eq_getElem?_getD, hi]

theorem Engine.chunks_congr {e' : Engine} (h : e'.r = e.r) : e'.chunks n = e.chunks n := by
  rw [Engine.chunks, Engine.chunks, h]

theorem Engine.chunks_set {e' : Engine} {i : Fin 4} {x : Chunk} (h : e'.r = e.r.set i x) :
    e'.chunks n = (e.chunks n).set i x := by
  rw [Engine.chunks, Engine.chunks, h, Vector.toList_set, List.take_set]

/-- R183: on A and R[0] .. R[N−1], the chaining step is the body of WrapFn's loop at the sequencer's pair. -/
theorem Engine.wrapChain_chunks (aes : AesPair) (key : AesKey) (hn : e.seq.n.toNat = n) (hi : e.seq.i.toNat < n) :
    ((e.wrapChain aes key).a, (e.wrapChain aes key).chunks n) =
      wrapBody aes key n (e.a, e.chunks n) (e.seq.j.toNat, e.seq.i.toNat) := by
  subst hn
  have hget : (e.chunks e.seq.n.toNat).getD e.seq.i.toNat 0#64 = e.r[e.seq.index] :=
    Engine.chunks_getD (i := e.seq.index) hi
  simp only [wrapBody, hget]
  exact Prod.ext rfl (Engine.chunks_set (i := e.seq.index) rfl)
end

/-! ### A WRAP in progress (R184, R186) -/

/-- R184: a WRAP of n chunks is running and has done k of its 6·n steps. -/
structure Engine.WrapAt (e : Engine) (n k : Nat) : Prop where
  running : e.Running (6 * n - k)
  op : e.seq.op = .wrap
  count : e.seq.n.toNat = n

/-- R184: the sequencer stands at the pair of position k. -/
theorem Engine.WrapAt.position {e : Engine} {n k : Nat} (h : e.WrapAt n k) :
    e.seq.i.toNat < n ∧ e.seq.j.toNat ≤ 5 ∧ n * e.seq.j.toNat + e.seq.i.toNat = k := by
  obtain ⟨⟨hinv, hb, hleft⟩, ho, hn⟩ := h
  have hi := hinv.run_i hb
  have hlt := hinv.position_lt hb
  rw [Engine.stepsLeft_wrap hb ho] at hleft
  rw [hn] at hi hlt hleft
  exact ⟨hi, hinv.run_j hb, by omega⟩

/-- R184: position 6·n − 1 is the pair (5, n−1). -/
theorem Engine.WrapAt.last {e : Engine} {n k : Nat} (h : e.WrapAt n k) (hk : k + 1 = 6 * n) :
    e.seq.j.toNat = 5 ∧ e.seq.i.toNat + 1 = e.seq.n.toNat := by
  obtain ⟨hi, hj, hpos⟩ := h.position
  have hj5 : e.seq.j.toNat = 5 := by
    by_contra hne
    have hmul := Nat.mul_le_mul_left n (show e.seq.j.toNat ≤ 4 by omega)
    omega
  rw [h.count]
  rw [hj5] at hpos
  exact ⟨hj5, by omega⟩

/-- R182: acceptance stands at position 0. -/
theorem Engine.wrapAt_accept {e : Engine} {n : Nat} (hacc : AcceptedChunks e.kekLen n)
    (hdata : e.dataLen.toNat = 8 * n) : (e.acceptWrap n).WrapAt n 0 := by
  have hn : (BitVec.ofNat 3 n).toNat = n := by rw [BitVec.toNat_ofNat]; omega
  have hv := (validate_eq_none_iff .wrap e.kekLen e.dataLen n).2 ⟨hacc, hdata⟩
  refine ⟨⟨Engine.inv_accept (op := .wrap) hv, rfl, ?_⟩, rfl, hn⟩
  rw [Engine.stepsLeft_wrap rfl rfl]
  simp only [Engine.acceptWrap, Engine.start_seq, hn]
  rfl

/-- R183, R184: a step before the last moves on by one position. -/
theorem Engine.WrapAt.step {aes : AesPair} {key : AesKey} {e : Engine} {n k : Nat} (h : e.WrapAt n k)
    (hk : e.aesKey = some key) (hlt : k + 1 < 6 * n) : ((e.wrapChain aes key).advanceWrap).WrapAt n (k + 1) := by
  obtain ⟨hrun, ho, hn⟩ := h
  have hleft : 6 * n - k = 6 * n - (k + 2) + 2 := by omega
  have hleft' : 6 * n - (k + 1) = 6 * n - (k + 2) + 1 := by omega
  obtain ⟨e', he, hrun'⟩ := (hleft ▸ hrun).step aes
  obtain rfl : (e.wrapChain aes key).advanceWrap = e' := Except.ok.inj ((Engine.step_of_wrap hk ho).symm.trans he)
  obtain ⟨⟨hop', hn'⟩, -⟩ := Engine.advanceWrap_of_running _ hrun'.busy
  exact ⟨hleft' ▸ hrun', hop'.trans ho, (congrArg BitVec.toNat hn').trans hn⟩

/-- R186: from e₀, the first k steps of a WRAP of n chunks make A and R[0] .. R[n−1] what the first k turns of WrapFn's
loop make of ICV and the plain key; they leave R[n] .. R[3], and of the rest change SEQ and the outcome only. -/
structure Engine.WrapAfter (e : Engine) (aes : AesPair) (key : AesKey) (n : Nat) (e₀ : Engine) (k : Nat) : Prop where
  regs : (e.a, e.chunks n) =
    ((List.range k).map (wrapPair n)).foldl (wrapBody aes key n) (icv, e₀.chunks n)
  rest : ∀ i : Fin 4, n ≤ i.val → e.r[i] = e₀.r[i]
  frame : e = { e₀ with
    a := e.a, r := e.r, done := e.done, err := e.err, outLen := e.outLen, seq := e.seq }

theorem Engine.wrapAfter_accept (aes : AesPair) (key : AesKey) (n : Nat) (e : Engine) :
    (e.acceptWrap n).WrapAfter aes key n e 0 := ⟨rfl, fun _ _ => rfl, rfl⟩

section
variable {aes : AesPair} {key : AesKey} {n k : Nat} {e₀ e : Engine}

theorem Engine.WrapAfter.aesKey (h : e.WrapAfter aes key n e₀ k) : e.aesKey = e₀.aesKey := by
  rw [h.frame]
  rfl

/-- R183, R186: the step at position k is the k-th turn of WrapFn's loop, the last step too. -/
theorem Engine.WrapAfter.step (h : e.WrapAfter aes key n e₀ k) (hat : e.WrapAt n k) :
    ((e.wrapChain aes key).advanceWrap).WrapAfter aes key n e₀ (k + 1) := by
  obtain ⟨hi, -, hpos⟩ := hat.position
  refine ⟨?_, fun i hle => ?_, ?_⟩
  · have hpair : wrapPair n k = (e.seq.j.toNat, e.seq.i.toNat) := hpos ▸ wrapPair_position hi
    rw [List.range_succ, List.map_append, List.foldl_append, ← h.regs, List.map_singleton, List.foldl_cons,
      List.foldl_nil, hpair, ← Engine.wrapChain_chunks aes key hat.count hi, Engine.advanceWrap_a,
      Engine.chunks_congr (Engine.advanceWrap_r _)]
  · have hne : i ≠ e.seq.index := fun heq => absurd hi (heq ▸ hle).not_gt
    rw [Engine.advanceWrap_r, Engine.wrapChain_r_ne _ _ _ i hne, h.rest i hle]
  · rw [Engine.wrapStep_frame, h.frame]
end

/-! ### The run of a WRAP (R184 to R186) -/

/-- R264: with nothing outstanding, an idle engine's turns change nothing. -/
theorem runWith_of_idle {aes : AesPair} {s : State} (hp : s.pending = []) (hb : s.engine.busy = false) (k : Nat) :
    runWith aes k s = .next s := by
  induction k with
  | zero => rfl
  | succ k ih => rw [runWith_succ aes k s s ((stepWith_nil hp).trans (engineTurn_of_idle hb)), ih]

/-- R6, R169: the accepted lengths give the engine a key. -/
theorem Engine.aesKey_of_accepted {e : Engine} {n : Nat} (hacc : AcceptedChunks e.kekLen n) :
    ∃ key, e.aesKey = some key := e.aesKey_isSome.2 (by omega)

section
variable {aes : AesPair} {key : AesKey} {s : State} {n : Nat}

/-- R184: the state k steps after acceptance, before the last step. -/
theorem runWith_wrap (hp : s.pending = []) (hacc : AcceptedChunks s.engine.kekLen n)
    (hdata : s.engine.dataLen.toNat = 8 * n) (hk : s.engine.aesKey = some key) {k : Nat} (hlt : k < 6 * n) :
    ∃ e, runWith aes k (s.respond (s.engine.acceptWrap n) (.write .okay)) = .next (s.respond e (.write .okay)) ∧
      e.WrapAt n k ∧ e.WrapAfter aes key n s.engine k := by
  induction k with
  | zero => exact ⟨_, rfl, Engine.wrapAt_accept hacc hdata, Engine.wrapAfter_accept aes key n s.engine⟩
  | succ k ih =>
    obtain ⟨e, hrun, hat, hafter⟩ := ih (by omega)
    have hk' : e.aesKey = some key := hafter.aesKey.trans hk
    refine ⟨(e.wrapChain aes key).advanceWrap, ?_, hat.step hk' hlt, hafter.step hat⟩
    rw [runWith_add hrun]
    exact runWith_succ aes 0 _ _ (stepWith_wrap (s := s.respond e _) hp hk' hat.running.busy hat.op)

/-- R185: the 6·n-th step after acceptance completes the command. -/
theorem runWith_wrap_complete (hp : s.pending = []) (hacc : AcceptedChunks s.engine.kekLen n)
    (hdata : s.engine.dataLen.toNat = 8 * n) (hk : s.engine.aesKey = some key) :
    ∃ e, runWith aes (6 * n) (s.respond (s.engine.acceptWrap n) (.write .okay)) =
        .next (s.respond e (.write .okay)) ∧ e.WrapAfter aes key n s.engine (6 * n) ∧
      e.err = 0#4 ∧ e.done = true ∧ e.seq = Seq.idle ∧ e.outLen.toNat = 8 * (n + 1) := by
  obtain ⟨k, hlast⟩ : ∃ k, 6 * n = k + 1 := Nat.exists_eq_add_of_le' (by omega)
  obtain ⟨e, hrun, hat, hafter⟩ := runWith_wrap (aes := aes) hp hacc hdata hk (k := k) (by omega)
  obtain ⟨hj, hi⟩ := hat.last hlast.symm
  have hcomplete := Engine.wrapChain_last (aes := aes) (key := key) hj hi
  have hout := (e.wrapChain aes key).wrapComplete_outLen
  rw [Engine.wrapChain_seq, hat.count] at hout
  have hstep := stepWith_wrap (aes := aes) (s := s.respond e (.write .okay)) hp (hafter.aesKey.trans hk)
    hat.running.busy hat.op
  rw [State.respond_engine, hcomplete] at hstep
  refine ⟨(e.wrapChain aes key).wrapComplete, ?_, ?_, rfl, rfl, rfl, hout⟩
  · rw [hlast, runWith_add hrun]
    exact runWith_succ aes 0 _ _ hstep
  · rw [hlast, ← hcomplete]
    exact hafter.step hat
end

/-- Settles O26: before the 6N-th step SEQ stands at position k; that step completes, and an idle engine stays so. -/
theorem wrapVisitsThePairsInOrder : Obligations.WrapVisitsThePairsInOrder := by
  intro aes s t n k hp hb hacc hdata ht
  obtain ⟨key, hk⟩ := Engine.aesKey_of_accepted hacc
  obtain rfl : s.respond (s.engine.acceptWrap n) (.write .okay) = t :=
    Host.Outcome.next.inj ((Issues.wrap.exec_of_accepted (op := .wrap) hb hacc hdata).symm.trans ht)
  obtain hlt | hle := Nat.lt_or_ge k (6 * n)
  · obtain ⟨e, hrun, hat, -⟩ := runWith_wrap (aes := aes) hp hacc hdata hk hlt
    exact ⟨_, hrun, fun _ => ⟨hat.running.busy, hat.position⟩, fun hle => absurd hlt hle.not_gt⟩
  · obtain ⟨e, hrun, -, -, -, hseq, -⟩ := runWith_wrap_complete (aes := aes) hp hacc hdata hk
    have hidle : e.busy = false := e.not_busy_iff.2 (congrArg Seq.phase hseq)
    refine ⟨s.respond e (.write .okay), ?_, fun hlt => absurd hlt hle.not_gt, fun _ => hidle⟩
    rw [← Nat.add_sub_cancel' hle, runWith_add hrun]
    exact runWith_of_idle (s := s.respond e (.write .okay)) hp hidle _

/-- Settles O28: after 6N steps the turns of WrapFn's loop are all done, in the order of its schedule. -/
theorem wrapComputesWrapFn : Obligations.WrapComputesWrapFn := by
  intro aes s n key hp hb hacc hdata hk
  obtain ⟨e, hrun, hafter, herr, hdone, hseq, hout⟩ := runWith_wrap_complete (aes := aes) hp hacc hdata hk
  refine ⟨_, _, Issues.wrap.exec_of_accepted (op := .wrap) hb hacc hdata, hrun, ?_, hafter.rest, hout, ?_, ?_⟩
  · rw [wrapFn, Engine.length_chunks (by omega), wrapSchedule_eq_map_wrapPair, ← hafter.regs]
    rfl
  · apply BitVec.eq_of_toNat_eq
    rw [State.respond_engine, hout, BitVec.toNat_add, hdata, BitVec.toNat_ofNat]
    omega
  · have hframe := hafter.frame
    rw [herr, hdone, hseq] at hframe
    exact congrArg (fun e => s.respond e (.write .okay)) hframe

end Sys2Proof.Machine

/-! PROOFS. Family 43_unwrap: acceptance, the chaining step, the integrity check, the order of the pairs, and a whole
UNWRAP (R201 to R208). -/

namespace Sys2Proof.Machine

/-! ### Acceptance (R202) -/

/-- Settles O29: the row issues UNWRAP, and the lengths are those of n + 1 chunks. -/
theorem unwrapIsAccepted : Obligations.UnwrapIsAccepted :=
  fun _ _ hb hacc hdata => Issues.unwrap.exec_of_accepted (op := .unwrap) hb hacc hdata

/-! ### The engine's turn in an UNWRAP (R203, R204) -/

/-- R203: with nothing outstanding, the next turn of a running UNWRAP is its chaining step. -/
theorem stepWith_unwrap {aes : AesPair} {s : State} {key : AesKey} (hp : s.pending = [])
    (hk : s.engine.aesKey = some key) (hb : s.engine.busy = true) (ho : s.engine.seq.op = .unwrap) :
    stepWith aes s = .next { s with engine := (s.engine.unwrapChain aes key).advanceUnwrap } :=
  stepWith_of_step hp hb (Engine.step_of_unwrap hk ho)

section
variable {e : Engine}

theorem Engine.advanceUnwrap_in_round (hi : 0 < e.seq.i.toNat) :
    e.advanceUnwrap = { e with seq := { e.seq with i := e.seq.i - 1#2 } } := if_pos hi

theorem Engine.advanceUnwrap_next_round (hi : e.seq.i.toNat = 0) (hj : 0 < e.seq.j.toNat) :
    e.advanceUnwrap =
      { e with seq := { e.seq with i := BitVec.ofNat 2 (e.seq.n.toNat - 1), j := e.seq.j - 1#3 } } :=
  (if_neg hi.not_gt).trans (if_pos hj)

theorem Engine.advanceUnwrap_last (hj : e.seq.j.toNat = 0) (hi : e.seq.i.toNat = 0) :
    e.advanceUnwrap = e.unwrapFinish := (if_neg hi.not_gt).trans (if_neg hj.not_gt)

/-- R204: before the pair (0, 0), the advance moves the sequencer and changes nothing else. -/
theorem Engine.advanceUnwrap_eq_moveTo (h : 0 < e.seq.j.toNat + e.seq.i.toNat) :
    e.advanceUnwrap = e.moveTo e.advanceUnwrap.seq.j e.advanceUnwrap.seq.i := by
  obtain ⟨-, hmove⟩ | ⟨-, -, hmove⟩ | ⟨hi, hj, -⟩ := e.advanceUnwrap_cases
  · rw [hmove]; rfl
  · rw [hmove]; rfl
  · omega
end

/-- R203, R204: before the pair (0, 0), the chaining step changes A, R[i] and the sequencer's position only. -/
theorem Engine.unwrapStep_eq_moveTo (aes : AesPair) (key : AesKey) {e : Engine}
    (h : 0 < e.seq.j.toNat + e.seq.i.toNat) :
    let e' := (e.unwrapChain aes key).advanceUnwrap
    e' = (e.unwrapChain aes key).moveTo e'.seq.j e'.seq.i :=
  Engine.advanceUnwrap_eq_moveTo (e := e.unwrapChain aes key) h

/-- Settles O30: the chaining step makes A and R[i], and the advance moves SEQ. -/
theorem unwrapStepChainsOneBlock : Obligations.UnwrapStepChainsOneBlock := by
  intro aes s key hp hk hrun ho hpos t b
  have hxor : s.engine.a.toNat ^^^ t = (icvXor s.engine.a s.engine.seq.counter).toNat := by
    rw [icvXor_toNat, Seq.counter_toNat]
  have hb : b = aes.dec key (block (icvXor s.engine.a s.engine.seq.counter) s.engine.r[s.engine.seq.index]) := by
    rw [block_eq_ofNat, ← hxor]
  have hmove := Engine.unwrapStep_eq_moveTo aes key hpos
  refine ⟨_, stepWith_unwrap hp hk (s.engine.busy_iff.2 hrun) ho, ?_, ?_, fun k hki => ?_, ?_, fun hi => ?_,
    fun hi hj => ?_⟩
  · rw [hmove, hb, ← msb_toNat]
    rfl
  · rw [hmove, hb, ← lsb_toNat, ← Engine.unwrapChain_r_index]
    rfl
  · rw [hmove, ← Engine.unwrapChain_r_ne s.engine aes key k hki]
    rfl
  · rw [hmove]
    rfl
  · exact congrArg Engine.seq (Engine.advanceUnwrap_in_round (e := s.engine.unwrapChain aes key) hi)
  · exact congrArg Engine.seq (Engine.advanceUnwrap_next_round (e := s.engine.unwrapChain aes key) hi hj)

/-! ### The integrity check (R205, R206) -/

section
variable (e : Engine)

/-- R206: with A and R zero, so is every byte of S. -/
theorem Engine.zeroState_sByte (k : Fin 40) : e.zeroState.sByte k = 0#8 := by
  have hreg (q : Fin 5) : e.zeroState.stateReg q = 0#64 := by
    unfold Engine.stateReg
    split
    · rfl
    · exact Vector.getElem_replicate _
  rw [Engine.sByte, hreg, chunkByte, BitVec.extractLsb'_zero]

/-- R205, R206: the end of an UNWRAP keeps KEK, the lengths, DROP and IRQ_EN. -/
theorem Engine.unwrapFinish_frame :
    let e' := e.unwrapFinish
    e' = { e with a := e'.a, r := e'.r, outLen := e'.outLen, err := e'.err, done := true, seq := Seq.idle } := by
  obtain ⟨-, h⟩ | ⟨-, h⟩ := e.unwrapFinish_cases
  · rw [h]; rfl
  · rw [h]; rfl

variable {e}

/-- R205: the check passes. -/
theorem Engine.unwrapFinish_of_icv (ha : e.a = icv) :
    e.unwrapFinish.err = 0#4 ∧ e.unwrapFinish.outLen.toNat = 8 * e.seq.n.toNat ∧ e.unwrapFinish.a = icv ∧
      e.unwrapFinish.r = e.r := by
  have hn := e.seq.n.isLt
  obtain ⟨-, h⟩ | ⟨hne, -⟩ := e.unwrapFinish_cases
  · rw [h, Engine.complete_outLen, BitVec.toNat_ofNat]
    exact ⟨rfl, Nat.mod_eq_of_lt (by omega), ha, rfl⟩
  · exact absurd ha hne

/-- R206: the check fails. -/
theorem Engine.unwrapFinish_of_ne_icv (ha : e.a ≠ icv) :
    e.unwrapFinish.err = 4#4 ∧ e.unwrapFinish.outLen = 0#32 ∧ ∀ k : Fin 40, e.unwrapFinish.sByte k = 0#8 := by
  obtain ⟨heq, -⟩ | ⟨-, h⟩ := e.unwrapFinish_cases
  · exact absurd heq ha
  · rw [h]
    exact ⟨rfl, rfl, e.zeroState_sByte⟩
end

/-- R203, R227: at the pair (0, 0) the counter is 1, whatever N is. -/
theorem Seq.counter_first {q : Seq} (hj : q.j.toNat = 0) (hi : q.i.toNat = 0) : q.counter = 1#8 := by
  rw [Seq.counter, hj, hi, stepCounter, Nat.mul_zero]

/-- Settles O32: the step at (0, 0) has counter 1, and ends in the check of the A it makes. -/
theorem lastUnwrapStepChecksIntegrity : Obligations.LastUnwrapStepChecksIntegrity := by
  intro aes s key _ hp hk hb ho hj hi b
  have hindex : s.engine.seq.index = 0 := Fin.ext hi
  have hget (r : Vector Chunk 4) : r[s.engine.seq.index] = r[0] := congrArg (fun k : Fin 4 => r[k]) hindex
  have hblock : aes.dec key (block (icvXor s.engine.a s.engine.seq.counter) s.engine.r[s.engine.seq.index]) = b := by
    rw [Seq.counter_first hj hi, hget]
    rfl
  have hicv : (s.engine.unwrapChain aes key).a = icv ↔ b.toNat / 2 ^ 64 = 0xA6A6A6A6A6A6A6A6 := by
    rw [Engine.unwrapChain_a, hblock, ← BitVec.toNat_inj, msb_toNat]
    rfl
  have hlast : (s.engine.unwrapChain aes key).advanceUnwrap = (s.engine.unwrapChain aes key).unwrapFinish :=
    Engine.advanceUnwrap_last hj hi
  refine ⟨_, stepWith_unwrap hp hk hb ho, ?_, fun hok => ?_, fun hbad => ?_⟩
  · rw [hlast]
    exact congrArg (fun e => { s with engine := e }) (s.engine.unwrapChain aes key).unwrapFinish_frame
  · obtain ⟨herr, hout, ha, hr⟩ := Engine.unwrapFinish_of_icv (hicv.2 hok)
    rw [hlast]
    refine ⟨herr, hout, ha, ?_, fun k hne => ?_⟩
    · rw [hr, ← hget, Engine.unwrapChain_r_index, hblock, lsb_toNat]
    · rw [hr, Engine.unwrapChain_r_ne _ _ _ k (hindex ▸ hne)]
  · rw [hlast]
    exact Engine.unwrapFinish_of_ne_icv (mt hicv.1 hbad)

/-! ### An UNWRAP in progress (R204, R207) -/

/-- R207: the last `left` turns of UnwrapRegs' loop on n chunks, at the positions left − 1 down to 0. -/
def unwrapTurns (aes : AesPair) (key : AesKey) (n left : Nat) (v : Chunk × List Chunk) : Chunk × List Chunk :=
  ((List.range left).map (wrapPair n)).reverse.foldl (unwrapBody aes key n) v

theorem unwrapTurns_succ (aes : AesPair) (key : AesKey) (n left : Nat) (v : Chunk × List Chunk) :
    unwrapTurns aes key n (left + 1) v = unwrapTurns aes key n left (unwrapBody aes key n v (wrapPair n left)) := by
  rw [unwrapTurns, List.range_succ, List.map_append, List.reverse_append, List.foldl_append]
  rfl

theorem unwrapRegs_eq_unwrapTurns (aes : AesPair) (key : AesKey) (a : Chunk) (r : List Chunk) :
    unwrapRegs aes key a r = unwrapTurns aes key r.length (6 * r.length) (a, r) := by
  rw [unwrapRegs, wrapSchedule_eq_map_wrapPair, unwrapTurns]

/-- R204, R207: an UNWRAP of n chunks that was accepted in e₀ is running with `left` steps to go. Only A, R and the
sequencer's position differ from acceptance, R[n] .. R[3] do not, and the turns still to come take A and
R[0] .. R[n−1] to UnwrapRegs of what they were. -/
structure Engine.Unwrapping (e : Engine) (aes : AesPair) (key : AesKey) (n : Nat) (e₀ : Engine) (left : Nat) :
    Prop where
  running : e.Running left
  count : e.seq.n.toNat = n
  frame : e = { e₀.acceptUnwrap n with a := e.a, r := e.r }.moveTo e.seq.j e.seq.i
  rest : ∀ i : Fin 4, n ≤ i.val → e.r[i] = e₀.r[i]
  regs : unwrapTurns aes key n left (e.a, e.chunks n) = unwrapRegs aes key e₀.a (e₀.chunks n)

/-- R202: acceptance stands before the first of the 6·n turns. -/
theorem Engine.unwrapping_accept (aes : AesPair) (key : AesKey) {e : Engine} {n : Nat}
    (hacc : AcceptedChunks e.kekLen n) (hdata : e.dataLen.toNat = 8 * (n + 1)) :
    (e.acceptUnwrap n).Unwrapping aes key n e (6 * n) := by
  have hn : (BitVec.ofNat 3 n).toNat = n := by rw [BitVec.toNat_ofNat]; omega
  have hi : (BitVec.ofNat 2 (n - 1)).toNat = n - 1 := by rw [BitVec.toNat_ofNat]; omega
  have hv := (validate_eq_none_iff .unwrap e.kekLen e.dataLen n).2 ⟨hacc, hdata⟩
  refine ⟨⟨Engine.inv_accept (op := .unwrap) hv, rfl, ?_⟩, hn, rfl, fun _ _ => rfl, ?_⟩
  · rw [Engine.stepsLeft_unwrap rfl rfl]
    simp only [Engine.acceptUnwrap, Engine.start_seq, hn, hi, BitVec.toNat_ofNat]
    omega
  · rw [unwrapRegs_eq_unwrapTurns, Engine.length_chunks (by omega)]
    rfl

section
variable {aes : AesPair} {key : AesKey} {n left : Nat} {e₀ e : Engine}

theorem Engine.Unwrapping.op (h : e.Unwrapping aes key n e₀ left) : e.seq.op = .unwrap := by
  rw [h.frame]
  rfl

theorem Engine.Unwrapping.aesKey (h : e.Unwrapping aes key n e₀ left) : e.aesKey = e₀.aesKey := by
  rw [h.frame]
  rfl

/-- R204: the sequencer stands at the pair of position left − 1. -/
theorem Engine.Unwrapping.position (h : e.Unwrapping aes key n e₀ left) :
    e.seq.i.toNat < n ∧ e.seq.j.toNat ≤ 5 ∧ n * e.seq.j.toNat + e.seq.i.toNat + 1 = left := by
  obtain ⟨hinv, hb, hleft⟩ := h.running
  have hi := hinv.run_i hb
  rw [Engine.stepsLeft_unwrap hb h.op] at hleft
  rw [h.count] at hi hleft
  exact ⟨hi, hinv.run_j hb, hleft⟩

/-- R204: the pair is (0, 0) only when one step is left. -/
theorem Engine.Unwrapping.pair_pos (h : e.Unwrapping aes key n e₀ (left + 2)) : 0 < e.seq.j.toNat + e.seq.i.toNat := by
  obtain ⟨-, -, hpos⟩ := h.position
  by_contra hzero
  obtain ⟨hj, hi⟩ : e.seq.j.toNat = 0 ∧ e.seq.i.toNat = 0 := by omega
  rw [hj, hi, Nat.mul_zero] at hpos
  omega

/-- R204: with one step left the pair is (0, 0). -/
theorem Engine.Unwrapping.last (h : e.Unwrapping aes key n e₀ 1) : e.seq.j.toNat = 0 ∧ e.seq.i.toNat = 0 := by
  obtain ⟨hi, -, hpos⟩ := h.position
  have hzero : n * e.seq.j.toNat = 0 := by omega
  exact ⟨(Nat.mul_eq_zero.1 hzero).resolve_left (by omega), by omega⟩

/-- R203: on A and R[0] .. R[N−1], the chaining step is the body of UnwrapRegs' loop at the sequencer's pair. -/
theorem Engine.unwrapChain_chunks (aes : AesPair) (key : AesKey) (hn : e.seq.n.toNat = n) (hi : e.seq.i.toNat < n) :
    ((e.unwrapChain aes key).a, (e.unwrapChain aes key).chunks n) =
      unwrapBody aes key n (e.a, e.chunks n) (e.seq.j.toNat, e.seq.i.toNat) := by
  subst hn
  have hget : (e.chunks e.seq.n.toNat).getD e.seq.i.toNat 0#64 = e.r[e.seq.index] :=
    Engine.chunks_getD (i := e.seq.index) hi
  simp only [unwrapBody, hget]
  exact Prod.ext rfl (Engine.chunks_set (i := e.seq.index) rfl)

/-- R203, R207: the chaining step takes one of the turns still to come, the last one too. -/
theorem Engine.Unwrapping.chain_regs (h : e.Unwrapping aes key n e₀ (left + 1)) :
    unwrapTurns aes key n left ((e.unwrapChain aes key).a, (e.unwrapChain aes key).chunks n) =
      unwrapRegs aes key e₀.a (e₀.chunks n) := by
  obtain ⟨hi, -, hpos⟩ := h.position
  have hpair : wrapPair n left = (e.seq.j.toNat, e.seq.i.toNat) := Nat.succ_injective hpos ▸ wrapPair_position hi
  rw [Engine.unwrapChain_chunks aes key h.count hi, ← hpair, ← unwrapTurns_succ, h.regs]

/-- R203, R207: the chaining step leaves R[n] .. R[3]. -/
theorem Engine.Unwrapping.chain_rest (h : e.Unwrapping aes key n e₀ left) (i : Fin 4) (hle : n ≤ i.val) :
    (e.unwrapChain aes key).r[i] = e₀.r[i] := by
  obtain ⟨hi, -, -⟩ := h.position
  have hne : i ≠ e.seq.index := fun heq => absurd hi (heq ▸ hle).not_gt
  rw [Engine.unwrapChain_r_ne _ _ _ i hne, h.rest i hle]

/-- R203, R204: a step before the last leaves one step fewer. -/
theorem Engine.Unwrapping.step (h : e.Unwrapping aes key n e₀ (left + 2)) (hk : e.aesKey = some key) :
    ((e.unwrapChain aes key).advanceUnwrap).Unwrapping aes key n e₀ (left + 1) := by
  obtain ⟨e', he, hrun⟩ := h.running.step aes
  obtain rfl : (e.unwrapChain aes key).advanceUnwrap = e' :=
    Except.ok.inj ((Engine.step_of_unwrap hk h.op).symm.trans he)
  rw [Engine.unwrapStep_eq_moveTo aes key h.pair_pos] at hrun ⊢
  refine ⟨hrun, h.count, ?_, h.chain_rest, h.chain_regs⟩
  rw [h.frame]
  rfl
end

/-! ### The run of an UNWRAP (R204 to R207) -/

section
variable {aes : AesPair} {key : AesKey} {n : Nat} {e₀ : Engine}

/-- R204: with nothing outstanding, fewer turns than steps left are steps of the UNWRAP. -/
theorem runWith_unwrap {k left : Nat} {s : State} (hp : s.pending = []) (hk : e₀.aesKey = some key)
    (h : s.engine.Unwrapping aes key n e₀ (k + left + 1)) :
    ∃ e, runWith aes k s = .next { s with engine := e } ∧ e.Unwrapping aes key n e₀ (left + 1) := by
  induction k generalizing s with
  | zero => exact ⟨s.engine, rfl, by simpa using h⟩
  | succ k ih =>
    rw [show k + 1 + left + 1 = k + left + 2 by omega] at h
    have hk' := h.aesKey.trans hk
    rw [runWith_succ aes k s _ (stepWith_unwrap hp hk' h.running.busy h.op)]
    exact ih (s := { s with engine := _ }) hp (h.step hk')

/-- R205 to R207: the 6·n-th step after acceptance ends the UNWRAP, by the check of UnwrapRegs' A'. -/
theorem runWith_unwrap_complete {s : State} (hp : s.pending = []) (hacc : AcceptedChunks s.engine.kekLen n)
    (hdata : s.engine.dataLen.toNat = 8 * (n + 1)) (hk : s.engine.aesKey = some key) :
    ∃ e : Engine, runWith aes (6 * n) (s.respond (s.engine.acceptUnwrap n) (.write .okay)) =
        .next (s.respond e.unwrapFinish (.write .okay)) ∧ e.seq.n.toNat = n ∧
      e = { s.engine.acceptUnwrap n with a := e.a, r := e.r, seq := e.seq } ∧
      (e.a, e.chunks n) = unwrapRegs aes key s.engine.a (s.engine.chunks n) ∧
      ∀ i : Fin 4, n ≤ i.val → e.r[i] = s.engine.r[i] := by
  have hstart := Engine.unwrapping_accept aes key hacc hdata
  obtain ⟨k, hlast⟩ : ∃ k, 6 * n = k + 1 := Nat.exists_eq_add_of_le' (by omega)
  rw [hlast] at hstart ⊢
  obtain ⟨e, hrun, hat⟩ :=
    runWith_unwrap (s := s.respond (s.engine.acceptUnwrap n) (.write .okay)) (left := 0) hp hk hstart
  obtain ⟨hj, hi⟩ := hat.last
  have hfinish : (e.unwrapChain aes key).advanceUnwrap = (e.unwrapChain aes key).unwrapFinish :=
    Engine.advanceUnwrap_last hj hi
  have hstep := stepWith_unwrap (aes := aes) (s := s.respond e (.write .okay)) hp (hat.aesKey.trans hk)
    hat.running.busy hat.op
  rw [State.respond_engine, hfinish] at hstep
  refine ⟨e.unwrapChain aes key, ?_, hat.count, ?_, hat.chain_regs, hat.chain_rest⟩
  · rw [runWith_add hrun]
    exact runWith_succ aes 0 _ _ hstep
  · rw [hat.frame]
    rfl
end

/-- Settles O31: before the 6N-th step SEQ stands at the position of the steps left; that step completes, and an idle
engine stays so. -/
theorem unwrapVisitsThePairsInReverse : Obligations.UnwrapVisitsThePairsInReverse := by
  intro aes s t n k hp hb hacc hdata ht
  obtain ⟨key, hk⟩ := Engine.aesKey_of_accepted hacc
  obtain rfl : s.respond (s.engine.acceptUnwrap n) (.write .okay) = t :=
    Host.Outcome.next.inj ((Issues.unwrap.exec_of_accepted (op := .unwrap) hb hacc hdata).symm.trans ht)
  obtain hlt | hle := Nat.lt_or_ge k (6 * n)
  · obtain ⟨left, hleft⟩ := Nat.exists_eq_add_of_lt hlt
    have hstart := Engine.unwrapping_accept aes key hacc hdata
    rw [hleft] at hstart ⊢
    obtain ⟨e, hrun, hat⟩ :=
      runWith_unwrap (s := s.respond (s.engine.acceptUnwrap n) (.write .okay)) hp hk hstart
    obtain ⟨hi, hj, hpos⟩ := hat.position
    refine ⟨_, hrun, fun _ => ⟨hat.running.busy, hi, hj, ?_⟩, fun hle => by omega⟩
    exact (congrArg (· + k) hpos).trans (by omega)
  · obtain ⟨e, hrun, -⟩ := runWith_unwrap_complete (aes := aes) hp hacc hdata hk
    have hidle : e.unwrapFinish.busy = false := by rw [e.unwrapFinish_frame]; rfl
    refine ⟨s.respond e.unwrapFinish (.write .okay), ?_, fun hlt => absurd hlt hle.not_gt, fun _ => hidle⟩
    rw [← Nat.add_sub_cancel' hle, runWith_add hrun]
    exact runWith_of_idle (s := s.respond e.unwrapFinish (.write .okay)) hp hidle _

/-- Settles O33: after 6N steps the turns of UnwrapRegs' loop are all done, and the check is of its A'. -/
theorem unwrapComputesUnwrapRegs : Obligations.UnwrapComputesUnwrapRegs := by
  intro aes s n key hp hb hacc hdata hk out
  obtain ⟨e, hrun, hcount, hframe, hregs, hrest⟩ := runWith_unwrap_complete (aes := aes) hp hacc hdata hk
  obtain ⟨ha, hchunks⟩ : e.a = out.1 ∧ e.chunks n = out.2 := Prod.mk.inj hregs
  refine ⟨_, _, Issues.unwrap.exec_of_accepted (op := .unwrap) hb hacc hdata, hrun, ?_, fun hok => ?_, fun hbad => ?_⟩
  · have hfinish := e.unwrapFinish_frame
    rw [hframe] at hfinish
    rw [hframe]
    exact congrArg (fun e => s.respond e (.write .okay)) hfinish
  · obtain ⟨herr, hout, hicv, hr⟩ := Engine.unwrapFinish_of_icv (ha.trans hok)
    refine ⟨herr, (Engine.chunks_congr hr).trans hchunks, hicv, hcount ▸ hout, fun i hle => ?_⟩
    rw [← hrest i hle, ← hr]
    rfl
  · exact Engine.unwrapFinish_of_ne_icv (ha ▸ hbad)

/-! ### UNWRAP after WRAP (R208) -/

/-- R[0] .. R[3] are the first n chunks and the others. -/
theorem Engine.r_eq_of_chunks {e e' : Engine} {n : Nat} (hchunks : e'.chunks n = e.chunks n)
    (hrest : ∀ i : Fin 4, n ≤ i.val → e'.r[i] = e.r[i]) : e'.r = e.r := by
  refine Vector.ext fun i hi => ?_
  obtain hlt | hle := Nat.lt_or_ge i n
  · rw [← Fin.getElem_fin (i := ⟨i, hi⟩), ← Engine.chunks_getD hlt, hchunks, Engine.chunks_getD hlt]
    rfl
  · exact hrest ⟨i, hi⟩ hle

/-- Settles O34: WRAP leaves WrapFn of the plain key and OUT_LEN = 8·(N + 1), so that UNWRAP under that DATA_LEN is
accepted and computes UnwrapRegs of it, which is ICV and the plain key. -/
theorem unwrapUndoesWrap : Obligations.UnwrapUndoesWrap := by
  intro aes s n hde hp hb hacc hdata
  obtain ⟨key, hk⟩ := Engine.aesKey_of_accepted hacc
  obtain ⟨t1, t2, hwrap, hrun2, hregs, hrest2, hout, -, hframe2⟩ := wrapComputesWrapFn aes s n key hp hb hacc hdata hk
  obtain ⟨hp2, hidle2, hkl2, hk2⟩ : t2.pending = [] ∧ t2.engine.busy = false ∧
      t2.engine.kekLen = s.engine.kekLen ∧ t2.engine.aesKey = some key := by
    rw [hframe2]
    exact ⟨hp, rfl, rfl, hk⟩
  obtain ⟨t4, t5, hunwrap, hrun5, hframe5, hok, -⟩ := unwrapComputesUnwrapRegs aes
    (t2.respond { t2.engine with dataLen := t2.engine.outLen } (.write .okay)) n key hp2 hidle2
    (hkl2.symm ▸ hacc) hout hk2
  have hinv := unwrapRegs_wrapRegs aes key icv (s.engine.chunks n) hde
  rw [wrapFn_eq_wrapRegs, List.cons.injEq] at hregs
  rw [← hregs.1, ← hregs.2] at hinv
  obtain ⟨herr, hchunks, -, -, hrest5⟩ := hok (congrArg Prod.fst hinv)
  have hplain : t5.engine.chunks n = s.engine.chunks n := hchunks.trans (congrArg Prod.snd hinv)
  refine ⟨t1, t2, _, t4, t5, hwrap, hrun2, exec_wr_operand hidle2 .dataLen _, hunwrap, hrun5, herr, ?_, ?_, hplain,
    Engine.r_eq_of_chunks hplain fun i hle => (hrest5 i hle).trans (hrest2 i hle)⟩
  · rw [hframe5]; rfl
  · rw [hframe5]

end Sys2Proof.Machine

/-! PROOFS. Family 44_icv_helpers: the halves of a block, the XOR and the check of A byte by byte, and the counter along
WRAP's schedule (R220 to R228). -/

namespace Sys2Proof.Machine

/-! ### Blocks as byte sequences (R8, R9, R220, R221, R224) -/

/-- R9, R220: byte k of MSB(8, B) is byte k of B. -/
theorem chunkByte_msb (b : Block) {k : Nat} (hk : k < 8) : chunkByte (msb b) k = b.extractLsb' (8 * (15 - k)) 8 :=
  extractLsb'_extractLsb' b (by omega) (by omega)

/-- R9, R221: byte k of LSB(8, B) is byte 8 + k of B. -/
theorem chunkByte_lsb (b : Block) {k : Nat} (hk : k < 8) : chunkByte (lsb b) k = b.extractLsb' (8 * (15 - (8 + k))) 8 :=
  extractLsb'_extractLsb' b (by omega) (by omega)

theorem length_chunkBytes (v : Chunk) : (chunkBytes v).length = 8 := by
  rw [chunkBytes, List.length_map, List.length_range]

/-- R8: a block's bytes are those of its two halves. -/
theorem blockBytes_eq_append (b : Block) : blockBytes b = chunkBytes (msb b) ++ chunkBytes (lsb b) := by
  have hhigh : chunkBytes (msb b) = (List.range 8).map fun k => b.extractLsb' (8 * (15 - k)) 8 :=
    List.map_congr_left fun _ hk => chunkByte_msb b (List.mem_range.1 hk)
  have hlow : chunkBytes (lsb b) = (List.range 8).map fun k => b.extractLsb' (8 * (15 - (8 + k))) 8 :=
    List.map_congr_left fun _ hk => chunkByte_lsb b (List.mem_range.1 hk)
  rw [hhigh, hlow, blockBytes, List.range_add (n := 8) (m := 8), List.map_append, List.map_map]
  rfl

theorem block_toNat (a r : Chunk) : (block a r).toNat = a.toNat * 2 ^ 64 + r.toNat := by
  rw [block, BitVec.toNat_append, ← Nat.shiftLeft_add_eq_or_of_lt r.isLt, Nat.shiftLeft_eq]

/-- Settles O36: the 16 bytes of a block are the 8 of its high half, then the 8 of its low half. -/
theorem halvesAreTheFirstAndLastBytes : Obligations.HalvesAreTheFirstAndLastBytes := by
  intro b a r
  have hlen := length_chunkBytes (msb b)
  refine ⟨?_, ?_, ?_, block_toNat a r⟩
  · rw [msbBytes, blockBytes_eq_append, List.take_left' hlen]
  · rw [lsbBytes, blockBytes_eq_append, List.length_append, length_chunkBytes (lsb b), Nat.add_sub_cancel,
      List.drop_left]
  · rw [blockBytes_eq_append, msb_block, lsb_block]

/-! ### The bytes of A (R222, R225, R226) -/

/-- R9: bit i of an 8-byte value is bit i mod 8 of the byte it lies in. -/
theorem getLsbD_eq_chunkByte (a : Chunk) {i : Nat} (hi : i < 64) :
    a.getLsbD i = (chunkByte a (7 - i / 8)).getLsbD (i % 8) := by
  have hbit : 8 * (7 - (7 - i / 8)) + i % 8 = i := by omega
  have hlt : i % 8 < 8 := Nat.mod_lt i (by decide)
  rw [chunkByte, BitVec.getLsbD_extractLsb', hbit, decide_eq_true hlt, Bool.true_and]

/-- R9: an 8-byte value is determined by its bytes. -/
theorem eq_of_chunkByte_eq {a b : Chunk} (h : ∀ k, k < 8 → chunkByte a k = chunkByte b k) : a = b := by
  refine BitVec.eq_of_getLsbD_eq fun i hi => ?_
  rw [getLsbD_eq_chunkByte a hi, getLsbD_eq_chunkByte b hi, h _ (by omega)]

/-- R222: every byte of ICV is A6. -/
theorem chunkByte_icv : ∀ k, k < 8 → chunkByte icv k = 0xA6#8 := by decide

theorem icvCheck_iff (a : Chunk) : icvCheck a = true ↔ a = icv := beq_iff_eq

/-- Settles O38: the check is equality with ICV, whose bytes are all A6, and the bytes determine the value. -/
theorem integrityCheckComparesEveryByte : Obligations.IntegrityCheckComparesEveryByte := by
  intro a
  rw [icvCheck_iff]
  constructor
  · rintro rfl
    exact chunkByte_icv
  · exact fun h => eq_of_chunkByte_eq fun k hk => (h k hk).trans (chunkByte_icv k hk).symm

theorem chunkByte_xor (a b : Chunk) (k : Nat) : chunkByte (a ^^^ b) k = chunkByte a k ^^^ chunkByte b k :=
  BitVec.extractLsb'_xor

/-- R225: a byte widened to 64 bits lies in byte 7. -/
theorem chunkByte_setWidth_last (t : Byte) : chunkByte (t.setWidth 64) 7 = t :=
  (BitVec.extractLsb'_setWidth_of_le (by decide)).trans BitVec.extractLsb'_eq_self

/-- R225: a byte widened to 64 bits has no bit above byte 7. -/
theorem chunkByte_setWidth_of_lt (t : Byte) {k : Nat} (hk : k < 7) : chunkByte (t.setWidth 64) k = 0#8 := by
  ext i hi
  have hge : 8 ≤ 8 * (7 - k) + i := by omega
  rw [chunkByte, BitVec.getElem_extractLsb', BitVec.getLsbD_setWidth, BitVec.getLsbD_of_ge t _ hge, Bool.and_false,
    BitVec.getElem_zero]

theorem icvXor_zero (a : Chunk) : icvXor a 0#8 = a := BitVec.xor_zero

/-- R225: the XOR leaves the bytes 0 to 6. -/
theorem chunkByte_icvXor_of_lt (a : Chunk) (t : Byte) {k : Nat} (hk : k < 7) :
    chunkByte (icvXor a t) k = chunkByte a k := by
  rw [icvXor, chunkByte_xor, chunkByte_setWidth_of_lt t hk, BitVec.xor_zero]

/-- R225: the XOR changes byte 7 by the counter. -/
theorem chunkByte_icvXor_last (a : Chunk) (t : Byte) : chunkByte (icvXor a t) 7 = chunkByte a 7 ^^^ t := by
  rw [icvXor, chunkByte_xor, chunkByte_setWidth_last]

/-- Settles O37: the laws of the halves and of the XOR, and the XOR byte by byte. -/
theorem helperIdentities : Obligations.HelperIdentities := fun b a r t =>
  ⟨block_msb_lsb b, msb_block a r, lsb_block a r, icvXor_icvXor a t, icvXor_zero a,
    fun _ hk => chunkByte_icvXor_of_lt a t hk, chunkByte_icvXor_last a t⟩

/-! ### The counter along the schedule (R223, R229) -/

theorem stepCounter_toNat (n j i : Nat) : (stepCounter n j i).toNat = (n * j + i + 1) % 256 := BitVec.toNat_ofNat _ _

/-- R223: below 6N ≤ 24, the counter at a position is its successor. -/
theorem stepCounter_wrapPair {n m : Nat} (hn : n ≤ 4) (hm : m < 6 * n) :
    (stepCounter n (wrapPair n m).1 (wrapPair n m).2).toNat = m + 1 := by
  rw [wrapPair, stepCounter_toNat, Nat.div_add_mod, Nat.mod_eq_of_lt (by omega)]

/-- R184: the pair (j, i) lies in the first 6 rounds of n pairs. -/
theorem position_lt {n j i : Nat} (hj : j ≤ 5) (hi : i < n) : n * j + i < 6 * n := by
  have hround : n * j ≤ n * 5 := Nat.mul_le_mul_left n hj
  omega

/-- Settles O39: the pair at position m < 6·n of WRAP's schedule has counter m + 1, and m + 1 ≤ 24. -/
theorem stepCounterRunsFromOneToSixN : Obligations.StepCounterRunsFromOneToSixN := by
  refine ⟨stepCounter_toNat, fun n _ hn => ⟨fun j i hj hi => ?_, ?_⟩⟩
  · have hpos := position_lt hj hi
    have hcount := stepCounter_wrapPair hn hpos
    rw [wrapPair_position hi] at hcount
    exact ⟨hcount, by omega⟩
  · rw [wrapSchedule_eq_map_wrapPair, List.map_map]
    exact List.map_congr_left fun m hm => stepCounter_wrapPair hn (List.mem_range.1 hm)

end Sys2Proof.Machine

/-! PROOFS. Family 60_exceptions: the outcome codes each command can end with (R240, R241). -/

namespace Sys2Proof.Machine

/-! ### The outcome of the transaction that issues a command (R166, R241) -/

/-- R140: what a transaction that issues a command, while none runs, leaves of the engine. -/
theorem Issues.engine_of_idle {i : Instr} {c : Command} (hi : Issues i c) {s t : State} (hb : s.engine.busy = false)
    (h : exec i s = .next t) : t.engine = s.engine.runCommand c := by
  rw [hi.exec_of_idle hb] at h
  cases h
  rfl

/-- R166, R241: an issue leaves ERR 0 when it is accepted, and one of the codes 1 to 3 when it is rejected. -/
theorem Engine.issue_err_le (e : Engine) (op : Op) : (e.issue op (e.accept op)).err.toNat ≤ 3 := by
  obtain ⟨n, -, h⟩ | ⟨c, hc, -, h⟩ := e.issue_cases op (e.accept op)
  · rw [h, Engine.accept_err]
    decide
  · rw [h, Engine.raiseErr, Engine.complete_err]
    obtain rfl | rfl | rfl := hc <;> decide

/-- R241: no issue of WRAP or UNWRAP leaves an ERR above 3. -/
theorem Issues.err_le_three {i : Instr} {op : Op} (hi : Issues i op.command) {s t : State}
    (hb : s.engine.busy = false) (h : exec i s = .next t) : t.engine.err.toNat ≤ 3 := by
  rw [hi.engine_of_idle hb h, s.engine.runCommand_command op]
  exact s.engine.issue_err_le op

/-! ### The outcome of the last step of a command (R185, R205, R206, R241) -/

section
variable {e : Engine}

/-- R185: the advance that ends a running WRAP is its completion with code NONE. -/
theorem Engine.advanceWrap_err_of_idle (hb : e.busy = true) (hidle : e.advanceWrap.busy = false) :
    e.advanceWrap.err = 0#4 := by
  obtain ⟨-, h⟩ | ⟨-, -, h⟩ | ⟨-, -, h⟩ := e.advanceWrap_cases
  · rw [h] at hidle
    exact absurd (hb.symm.trans hidle) (by decide)
  · rw [h] at hidle
    exact absurd (hb.symm.trans hidle) (by decide)
  · rw [h]
    rfl

/-- R205, R206: the two ends of the integrity check have the codes NONE and INTEGRITY_CHECK_FAILED. -/
theorem Engine.unwrapFinish_err (e : Engine) : e.unwrapFinish.err = 0#4 ∨ e.unwrapFinish.err = 4#4 := by
  obtain ⟨-, h⟩ | ⟨-, h⟩ := e.unwrapFinish_cases
  · exact .inl (congrArg Engine.err h)
  · exact .inr (congrArg Engine.err h)

/-- R204: the advance that ends a running UNWRAP is its integrity check. -/
theorem Engine.advanceUnwrap_err_of_idle (hb : e.busy = true) (hidle : e.advanceUnwrap.busy = false) :
    e.advanceUnwrap.err = 0#4 ∨ e.advanceUnwrap.err = 4#4 := by
  obtain ⟨-, h⟩ | ⟨-, -, h⟩ | ⟨-, -, h⟩ := e.advanceUnwrap_cases
  · rw [h] at hidle
    exact absurd (hb.symm.trans hidle) (by decide)
  · rw [h] at hidle
    exact absurd (hb.symm.trans hidle) (by decide)
  · rw [h]
    exact e.unwrapFinish_err

/-- R241: the outcomes of the step that ends a running command, by its operation. -/
theorem Engine.step_err_of_idle {aes : AesPair} {e' : Engine} (h : Engine.step aes e = .ok e') (hb : e.busy = true)
    (hidle : e'.busy = false) :
    (e.seq.op = .wrap → e'.err = 0#4) ∧ (e.seq.op = .unwrap → e'.err = 0#4 ∨ e'.err = 4#4) := by
  obtain ⟨key, -, ⟨ho, rfl⟩ | ⟨ho, rfl⟩⟩ := Engine.step_cases h
  · refine ⟨fun _ => ?_, fun hu => absurd (ho.symm.trans hu) (by decide)⟩
    exact Engine.advanceWrap_err_of_idle ((e.wrapChain_busy aes key).trans hb) hidle
  · refine ⟨fun hw => absurd (ho.symm.trans hw) (by decide), fun _ => ?_⟩
    exact Engine.advanceUnwrap_err_of_idle ((e.unwrapChain_busy aes key).trans hb) hidle
end

/-- With nothing outstanding, a turn of a busy engine is an engine step. -/
theorem Engine.step_of_stepWith {aes : AesPair} {s t : State} (hp : s.pending = []) (hb : s.engine.busy = true)
    (h : stepWith aes s = .next t) : Engine.step aes s.engine = .ok t.engine := by
  rw [stepWith_nil hp] at h
  obtain ⟨-, e, he, rfl⟩ | ⟨hidle, -⟩ := engineTurn_cases h
  · exact he
  · exact absurd (hb.symm.trans hidle) (by decide)

/-- Settles O40: at issue each command leaves its own codes, and at the last step the completion of its operation. -/
theorem eachCommandHasItsOutcomes : Obligations.EachCommandHasItsOutcomes := by
  intro aes s t hb
  refine ⟨Issues.err_le_three (op := .wrap) .wrap hb, Issues.err_le_three (op := .unwrap) .unwrap hb, fun h => ?_,
    fun v hv h => ?_, fun h => ?_, fun u w hp hrun h hidle => ?_⟩
  · exact congrArg Engine.err (Issues.clear.engine_of_idle hb h)
  · have hillegal : decodeCmd v = .illegal := decodeCmd_eq_illegal (by omega)
    exact congrArg Engine.err ((Issues.wr hillegal).engine_of_idle hb h)
  · exact congrArg Engine.err (Issues.nop.engine_of_idle hb h)
  · exact Engine.step_err_of_idle (Engine.step_of_stepWith hp hrun h) hrun hidle

end Sys2Proof.Machine
